-- ==== Sys2Proof/Word.lean ====
section
/-! DEFINITION. The block's plain data types: line levels, protocol states, output events, trace causes, operating modes and
the host operation as it stands at the ports. A time, a value of the host's microsecond counter, and a duration in µs are natural
numbers: the counter's width is the parameter TIME_WIDTH, and the wrap is in the one place R10 puts it, `timeDiff` (spec/00_scope.md R9 to R11, spec/30_encoding.md R56, spec/44_host_ops.md R118, R119). [log 3] -/

namespace Sys2Proof

/-- One byte of a buffer (R37). -/
abbrev Byte := BitVec 8

/-- A CEC logical address, 0x0 to 0xF (R14). -/
abbrev LogAddr := BitVec 4

/-- A protocol-state code as register `st` holds it: five bits, of which codes 22 to 31 name no state (R56, R57). -/
abbrev StateCode := BitVec 5

/-- A line level (R11): LOW is pulled low, HIGH is released. -/
inductive Level
  | low
  | high
  deriving DecidableEq, Repr

/-- The 22 protocol states, in the order of their codes (R56). -/
inductive Phase
  | idle
  | rcvStartbit1
  | rcvStartbit2
  | rcvDatabit1
  | rcvDatabit2
  | rcvEom1
  | rcvEom2
  | rcvAckSent
  | rcvAck1
  | rcvAck2
  | rcvLineerror
  | xmitWait
  | xmitStartbit1
  | xmitStartbit2
  | xmitDatabit1
  | xmitDatabit2
  | xmitEom1
  | xmitEom2
  | xmitAck1
  | xmitAckTest
  | xmitAckWait
  | xmitAck2
  deriving DecidableEq, Repr

/-- The output events (R119). The bytes are a copy taken at emission (R46). -/
inductive Event
  | setLine (v : Level)
  | rxComplete (bytes : List Byte) (n : Nat) (ack : Bool)
  | txComplete (bytes : List Byte) (n : Nat) (ok : Bool)
  | ready (la : LogAddr)
  deriving DecidableEq, Repr

/-- The error conditions of R125. The block records none of them; they exist for a model's trace only. -/
inductive Cause
  | rxStartLowRange
  | rxStartLowTimeout
  | rxStartTotalRange
  | rxStartTotalTimeout
  | rxBitTolerance
  | rxOverflow
  | rxHighTimeout
  | rxLineError
  | txArbitration
  | txNakRetry
  | txNakFinal
  | txProbeNak
  | xmitNoLa
  | xmitMonitor
  | xmitPending
  | xmitTooLong
  deriving DecidableEq, Repr

/-- The operating modes of R131. They are a view of the registers, not state of their own. -/
inductive Mode
  | unconfigured
  | monitor
  | allocating
  | unclaimed
  | claimed
  deriving DecidableEq, Repr

/-- The bytes of the payload port: as many as XMIT's 5-bit field `len` can count (R53). How many of them XMIT takes is the
parameter MAX_PAYLOAD. [log 13] -/
abbrev payloadWidth : Nat := 31

/-- One host operation as it stands at the ports of R118: the command word, the payload port, the
microsecond counter, and whether the host began it before the previous operation returned (R44). [log 10, 12, 13] -/
structure HostOp where
  cw      : BitVec 32
  payload : Vector Byte payloadWidth
  now     : Nat
  overlap : Bool
  deriving DecidableEq, Repr

end Sys2Proof
end

