-- ==== Sys2Proof/Config.lean ====
section
/-! DEFINITION. The parameters of spec/00_scope.md R7 as one configuration record with the spec's default values, and the candidate
table of spec/43_allocator.md R111. Every row of the table is a field, and the rules read the fields. The machine takes the record as
an argument, which State carries. [log 1] -/

namespace Sys2Proof

/-- The parameter table of R7. Durations are in µs, the three FREE values in bit periods. -/
structure Config where
  /-- CAP: the capacity of each buffer in bytes. The register widths of the spec's table are those of CAP = 16. [log 2, log 5] -/
  cap               : Nat := 16
  /-- MAX_PAYLOAD = CAP - 1: a frame's bytes but the header. [log 2] -/
  maxPayload        : Nat := cap - 1
  maxRetries        : Nat := 5
  startLow          : Nat := 3700
  startTotal        : Nat := 4500
  bitLow1           : Nat := 600
  bitLow0           : Nat := 1500
  bitTime           : Nat := 2400
  ackSample         : Nat := 1050
  settleRise        : Nat := 250
  settleFall        : Nat := 50
  freeNew           : Nat := 5
  freePrev          : Nat := 7
  freeRetry         : Nat := 3
  lowMargin         : Nat := 300
  periodMargin      : Nat := 450
  startLowTimeout   : Nat := startLow + lowMargin
  startTotalTimeout : Nat := startTotal + periodMargin
  rxHighTimeout     : Nat := bitTime + periodMargin
  lineErrorLow      : Nat := bitTime + periodMargin
  timeWidth         : Nat := 32
  physBroadcast     : BitVec 16 := 0xFFFF
  laBroadcast       : LogAddr := 0xF
  laUnregistered    : LogAddr := 0xF
  /-- RUN_CADENCE_MAX: recommended to the host and enforced by nothing in the block (R141); `Safety.lean` states it. -/
  runCadenceMax     : Nat := 40
  /-- CANDIDATES(t) of R111, the list for device type t at index t. The values are general knowledge by the spec's own
  word, and so are a parameter. [log 18] -/
  candidates        : List (List LogAddr) :=
    [[0x0, 0xE, 0xF], [0x1, 0x2, 0x9, 0xF], [], [0x3, 0x6, 0x7, 0xA, 0xF], [0x4, 0x8, 0xB, 0xF], [0x5, 0xF], [], []]
  deriving DecidableEq, Repr

/-- The default parameter set: the value column of R7. -/
def Config.default : Config := {}

/-- CANDIDATES(t) (R111); a type the table does not list maps to the empty list. -/
def Config.candidatesOf (c : Config) (t : BitVec 3) : List LogAddr := c.candidates.getD t.toNat []

end Sys2Proof
end

