-- ==== Sys2Proof/Syntax.lean ====
section
/-! DEFINITION. The instructions: one constructor per row of spec/opcode_table.json. The three host operations carry the fields of
their command word (spec/30_encoding.md R52 to R54); their operand blocks, the payload and `now`, stand at the ports
beside the word. An arm is selected by its state code alone (R56) and reads the values the RUN step hands it (R73). [log 15] -/

namespace Sys2Proof

inductive Instr
  | init (pa : BitVec 16) (dtype : BitVec 3) (prom mon : Bool)
  | xmit (target : LogAddr) (len : BitVec 5)
  | run (line : Level)
  | armIdle
  | armRcvStartbit1
  | armRcvStartbit2
  | armRcvDatabit1
  | armRcvDatabit2
  | armRcvEom1
  | armRcvEom2
  | armRcvAckSent
  | armRcvAck1
  | armRcvAck2
  | armRcvLineerror
  | armXmitWait
  | armXmitStartbit1
  | armXmitStartbit2
  | armXmitDatabit1
  | armXmitDatabit2
  | armXmitEom1
  | armXmitEom2
  | armXmitAck1
  | armXmitAckTest
  | armXmitAckWait
  | armXmitAck2
  deriving DecidableEq, Repr

end Sys2Proof
end

