-- ==== Sys2Proof/WellFormed.lean ====
section
/-! DEFINITION. The static checks: the parameter constraints (a) to (f) of spec/00_scope.md R8 and the equation of R7, which instructions a host may present
as a command word (spec/30_encoding.md R51), and a host operation's operand widths (spec/44_host_ops.md R118). The field
widths of an instruction are carried by its types. -/

namespace Sys2Proof

/-- R8 (a): the two data-bit windows are disjoint. -/
def Config.okA (c : Config) : Bool := decide (c.bitLow1 + c.lowMargin < c.bitLow0 - c.lowMargin)

/-- R8 (b). -/
def Config.okB (c : Config) : Bool := decide (c.startLow + c.lowMargin < c.startTotal + c.periodMargin)

/-- R8 (c): the acknowledge sample is not masked by the settle window of the initiator's own release. -/
def Config.okC (c : Config) : Bool := decide (c.bitLow1 + c.settleRise < c.ackSample)

/-- R8 (d). -/
def Config.okD (c : Config) : Bool := decide (c.bitLow0 + c.lowMargin < c.lineErrorLow)

/-- Every wait budget that some arm sets (R74). [log 22] -/
def Config.budgets (c : Config) : List Nat :=
  [c.startLowTimeout, c.startTotalTimeout, c.rxHighTimeout, c.lineErrorLow, c.bitLow0, c.bitLow1, c.startLow, c.startTotal,
   c.bitTime, c.ackSample, c.freeNew * c.bitTime, c.freePrev * c.bitTime, c.freeRetry * c.bitTime]

/-- R8 (e): every budget fits the counter. -/
def Config.okE (c : Config) : Bool := c.budgets.all fun d => decide (d < 2 ^ c.timeWidth)

/-- R8 (f) for one list: empty, or one or more values in 0x0 to 0xE and then LA_UNREGISTERED, once, as the last. R8 (f) bounds no
list's length, and neither does the model: a list of more than eight entries is admitted, though its indices pass the 3 bits
of `candIdx`. DESIGN CHOICE. [log 5, log 22] -/
def Config.candidateListOk (c : Config) (l : List LogAddr) : Bool :=
  l.isEmpty ||
    (decide (2 ≤ l.length) && decide (l.getLast? = some c.laUnregistered) &&
      l.dropLast.all fun a => decide (a ≠ 0xF) && decide (a ≠ c.laUnregistered))

/-- R8 (f). -/
def Config.okF (c : Config) : Bool := c.candidates.all c.candidateListOk

/-- R7: MAX_PAYLOAD is CAP less the header byte, so every buffer has index 0. R8 does not list this equation; the model refuses
a record that breaks it. [log 2] -/
def Config.okPayload (c : Config) : Bool := decide (c.maxPayload + 1 = c.cap)

/-- The parameter sets a model may run: R8, and the equation of R7. -/
def Config.ok (c : Config) : Bool := c.okPayload && (c.okA && c.okB && c.okC && c.okD && c.okE && c.okF)

/-- Whether an instruction is a host operation, the only kind a command word encodes (R51). -/
def Instr.isCommand : Instr → Bool
  | .init _ _ _ _ => true
  | .xmit _ _ => true
  | .run _ => true
  | .armIdle => false
  | .armRcvStartbit1 => false
  | .armRcvStartbit2 => false
  | .armRcvDatabit1 => false
  | .armRcvDatabit2 => false
  | .armRcvEom1 => false
  | .armRcvEom2 => false
  | .armRcvAckSent => false
  | .armRcvAck1 => false
  | .armRcvAck2 => false
  | .armRcvLineerror => false
  | .armXmitWait => false
  | .armXmitStartbit1 => false
  | .armXmitStartbit2 => false
  | .armXmitDatabit1 => false
  | .armXmitDatabit2 => false
  | .armXmitEom1 => false
  | .armXmitEom2 => false
  | .armXmitAck1 => false
  | .armXmitAckTest => false
  | .armXmitAckWait => false
  | .armXmitAck2 => false

/-- The operand `now` fits its port of TIME_WIDTH bits (R118). A wider number loses its high bits there. [log 3] -/
def HostOp.fits (c : Config) (op : HostOp) : Bool := decide (op.now < 2 ^ c.timeWidth)

end Sys2Proof
end

