-- ==== Sys2Proof/Decode.lean ====
section
/-! DEFINITION. The decoder of the two kinds of word of spec/30_encoding.md, command words (R51 to R55) and state codes (R56, R57),
total and rejecting by name; after it the encoder, and the numbering the opcode table gives the words. -/

namespace Sys2Proof

/-- What decoding answers: the instruction, or the reason the word encodes none (R55, R57). -/
inductive Decoded
  | accept (i : Instr)
  | reservedOpcode
  | reservedBits
  | reservedStateCode
  deriving DecidableEq, Repr

/-- A word of the block: a host command word, or the state code that selects an arm. -/
inductive MachineWord
  | command (cw : BitVec 32)
  | stateCode (c : StateCode)
  deriving DecidableEq, Repr

/-- The instruction, where there is one. -/
def Decoded.instr? : Decoded → Option Instr
  | .accept i => some i
  | .reservedOpcode => none
  | .reservedBits => none
  | .reservedStateCode => none

/-- The level a one-bit field gives: 1 = HIGH, 0 = LOW (R54). -/
def levelOfBit (b : Bool) : Level := if b then .high else .low

/-- The one-bit field of a level (R54). -/
def bitOfLevel : Level → Bool
  | .low => false
  | .high => true

/-- INIT, R52: `pa` [31:16], reserved [15:7], `mon` [6], `prom` [5], `dtype` [4:2]. -/
def decodeInit (cw : BitVec 32) : Decoded :=
  if cw.extractLsb' 7 9 = 0 then
    .accept (.init (cw.extractLsb' 16 16) (cw.extractLsb' 2 3) (cw.getLsbD 5) (cw.getLsbD 6))
  else .reservedBits

/-- XMIT, R53: reserved [31:11], `len` [10:6], `target` [5:2]. -/
def decodeXmit (cw : BitVec 32) : Decoded :=
  if cw.extractLsb' 11 21 = 0 then .accept (.xmit (cw.extractLsb' 2 4) (cw.extractLsb' 6 5))
  else .reservedBits

/-- RUN, R54: reserved [31:3], `line` [2]. -/
def decodeRun (cw : BitVec 32) : Decoded :=
  if cw.extractLsb' 3 29 = 0 then .accept (.run (levelOfBit (cw.getLsbD 2))) else .reservedBits

/-- The host command word: the opcode is bits [1:0] alone (R51, R63). -/
def decodeCommand (cw : BitVec 32) : Decoded :=
  match cw.getLsbD 1, cw.getLsbD 0 with
  | false, false => .reservedOpcode
  | false, true => decodeInit cw
  | true, false => decodeXmit cw
  | true, true => decodeRun cw

/-- The code of a protocol state (R56). -/
def Phase.code : Phase → StateCode
  | .idle => 0
  | .rcvStartbit1 => 1
  | .rcvStartbit2 => 2
  | .rcvDatabit1 => 3
  | .rcvDatabit2 => 4
  | .rcvEom1 => 5
  | .rcvEom2 => 6
  | .rcvAckSent => 7
  | .rcvAck1 => 8
  | .rcvAck2 => 9
  | .rcvLineerror => 10
  | .xmitWait => 11
  | .xmitStartbit1 => 12
  | .xmitStartbit2 => 13
  | .xmitDatabit1 => 14
  | .xmitDatabit2 => 15
  | .xmitEom1 => 16
  | .xmitEom2 => 17
  | .xmitAck1 => 18
  | .xmitAckTest => 19
  | .xmitAckWait => 20
  | .xmitAck2 => 21

/-- The protocol state of a code; codes 22 to 31 name none (R56, R57). -/
def decodePhase (c : StateCode) : Option Phase :=
  match c.toNat with
  | 0 => some .idle
  | 1 => some .rcvStartbit1
  | 2 => some .rcvStartbit2
  | 3 => some .rcvDatabit1
  | 4 => some .rcvDatabit2
  | 5 => some .rcvEom1
  | 6 => some .rcvEom2
  | 7 => some .rcvAckSent
  | 8 => some .rcvAck1
  | 9 => some .rcvAck2
  | 10 => some .rcvLineerror
  | 11 => some .xmitWait
  | 12 => some .xmitStartbit1
  | 13 => some .xmitStartbit2
  | 14 => some .xmitDatabit1
  | 15 => some .xmitDatabit2
  | 16 => some .xmitEom1
  | 17 => some .xmitEom2
  | 18 => some .xmitAck1
  | 19 => some .xmitAckTest
  | 20 => some .xmitAckWait
  | 21 => some .xmitAck2
  | _ => none

/-- The arm that runs when RUN dispatches on a protocol state (R56, R73). -/
def Phase.arm : Phase → Instr
  | .idle => .armIdle
  | .rcvStartbit1 => .armRcvStartbit1
  | .rcvStartbit2 => .armRcvStartbit2
  | .rcvDatabit1 => .armRcvDatabit1
  | .rcvDatabit2 => .armRcvDatabit2
  | .rcvEom1 => .armRcvEom1
  | .rcvEom2 => .armRcvEom2
  | .rcvAckSent => .armRcvAckSent
  | .rcvAck1 => .armRcvAck1
  | .rcvAck2 => .armRcvAck2
  | .rcvLineerror => .armRcvLineerror
  | .xmitWait => .armXmitWait
  | .xmitStartbit1 => .armXmitStartbit1
  | .xmitStartbit2 => .armXmitStartbit2
  | .xmitDatabit1 => .armXmitDatabit1
  | .xmitDatabit2 => .armXmitDatabit2
  | .xmitEom1 => .armXmitEom1
  | .xmitEom2 => .armXmitEom2
  | .xmitAck1 => .armXmitAck1
  | .xmitAckTest => .armXmitAckTest
  | .xmitAckWait => .armXmitAckWait
  | .xmitAck2 => .armXmitAck2

/-- A state code selects its arm, or is reserved (R56, R57). -/
def decodeStateCode (c : StateCode) : Decoded :=
  match decodePhase c with
  | some p => .accept p.arm
  | none => .reservedStateCode

/-- The decoder, total on every word of the block. -/
def decode : MachineWord → Decoded
  | .command cw => decodeCommand cw
  | .stateCode c => decodeStateCode c

/-- A field of a command word, placed from bit `lo` up. -/
def placeField {n : Nat} (v : BitVec n) (lo : Nat) : BitVec 32 := v.setWidth 32 <<< lo

/-- INIT's word from its fields; the reserved bits [15:7] stay 0 (R52). -/
def encodeInit (pa : BitVec 16) (dtype : BitVec 3) (prom mon : Bool) : BitVec 32 :=
  placeField pa 16 ||| placeField (BitVec.ofBool mon) 6 ||| placeField (BitVec.ofBool prom) 5 ||| placeField dtype 2 ||| 0b01

/-- XMIT's word from its fields; the reserved bits [31:11] stay 0 (R53). -/
def encodeXmit (target : LogAddr) (len : BitVec 5) : BitVec 32 := placeField len 6 ||| placeField target 2 ||| 0b10

/-- RUN's word from its field; the reserved bits [31:3] stay 0 (R54). -/
def encodeRun (line : Level) : BitVec 32 := placeField (BitVec.ofBool (bitOfLevel line)) 2 ||| 0b11

/-- The encoder: the word of each instruction (R51 to R56). -/
def encode : Instr → MachineWord
  | .init pa dtype prom mon => .command (encodeInit pa dtype prom mon)
  | .xmit target len => .command (encodeXmit target len)
  | .run line => .command (encodeRun line)
  | .armIdle => .stateCode (Phase.code .idle)
  | .armRcvStartbit1 => .stateCode (Phase.code .rcvStartbit1)
  | .armRcvStartbit2 => .stateCode (Phase.code .rcvStartbit2)
  | .armRcvDatabit1 => .stateCode (Phase.code .rcvDatabit1)
  | .armRcvDatabit2 => .stateCode (Phase.code .rcvDatabit2)
  | .armRcvEom1 => .stateCode (Phase.code .rcvEom1)
  | .armRcvEom2 => .stateCode (Phase.code .rcvEom2)
  | .armRcvAckSent => .stateCode (Phase.code .rcvAckSent)
  | .armRcvAck1 => .stateCode (Phase.code .rcvAck1)
  | .armRcvAck2 => .stateCode (Phase.code .rcvAck2)
  | .armRcvLineerror => .stateCode (Phase.code .rcvLineerror)
  | .armXmitWait => .stateCode (Phase.code .xmitWait)
  | .armXmitStartbit1 => .stateCode (Phase.code .xmitStartbit1)
  | .armXmitStartbit2 => .stateCode (Phase.code .xmitStartbit2)
  | .armXmitDatabit1 => .stateCode (Phase.code .xmitDatabit1)
  | .armXmitDatabit2 => .stateCode (Phase.code .xmitDatabit2)
  | .armXmitEom1 => .stateCode (Phase.code .xmitEom1)
  | .armXmitEom2 => .stateCode (Phase.code .xmitEom2)
  | .armXmitAck1 => .stateCode (Phase.code .xmitAck1)
  | .armXmitAckTest => .stateCode (Phase.code .xmitAckTest)
  | .armXmitAckWait => .stateCode (Phase.code .xmitAckWait)
  | .armXmitAck2 => .stateCode (Phase.code .xmitAck2)

/-- The word a number stands for, as the opcode table numbers it: a row of at most eight bits is a state code in bits
[4:0] (its mask is 0x1F), a longer row is a 32-bit command word whose bits above `nbits` are 0. [log 16] -/
def tableWord (nbits w : Nat) : MachineWord :=
  if nbits ≤ 8 then .stateCode (BitVec.ofNat 5 w) else .command (BitVec.ofNat 32 (w % 2 ^ nbits))

/-- The instruction the decoder reads from a word of the opcode table. -/
def decodeTableWord (nbits w : Nat) : Option Instr := (decode (tableWord nbits w)).instr?

end Sys2Proof
end

