-- ==== Sys2Proof/Machine/State.lean ====
section
/-! DEFINITION. The machine's state as plain data: the 25 elements of spec/10_state.md, the parameter record, and the ports between the
host and the block (spec/44_host_ops.md R118). With it the faults, the refusals and reset (spec/70_reset_and_hazards.md R137). -/

namespace Sys2Proof.Machine

/-- A buffer of CAP bytes (R37): the bytes that are not 0x00, by index, in rising order. An index not listed reads
0x00, the buffers' reset contents (R137). [log 7] -/
abbrev Memory := List Host.Cell

/-- Why the machine stops with an error. No state reachable from reset raises either. -/
inductive Fault
  /-- A buffer index outside 0 to CAP - 1 (R39): `withByte`, `withBytes`, `withRoom`. Safe: the spec asks for the fault. -/
  | bufferIndex (i : Nat)
  /-- A candidate index past the device type's list (R114): `allocStep`, `allocClaim`. Safe: the spec gives no effect. [log 17] -/
  | candidateIndex (i : Nat)
  deriving DecidableEq, Repr

/-- Why an operation is refused with no state change (R127). Each is safe: a claim about a program that meets one is
unprovable. -/
inductive Refusal
  /-- `exec`: the instruction has no meaning in this model yet. -/
  | notModelled (mnemonic : String)
  /-- `performOp`: opcode 00 or a reserved bit set (R55). -/
  | reservedCmd
  /-- `execRun`: RUN while not initialised (R122, R139). -/
  | runBeforeInit
  /-- `execInit`: INIT while initialised (R120). -/
  | secondInit
  /-- `execRun`: the state code is one of 22 to 31 (R57). -/
  | reservedState
  /-- `performOp`: the host began the operation while another ran (R44, R140). -/
  | overlap
  /-- `performOp`, `inert`: the parameter set breaks R8. -/
  | badParams
  deriving DecidableEq, Repr

/-- The architectural state, element by element as the table of 10_state.md section 1 lists it. -/
structure Regs where
  /-- INIT has been accepted (R16). -/
  initialized   : Bool
  /-- The device's physical address, 16 bits (R17). -/
  physAddr      : BitVec 16
  /-- The device type code, 3 bits (R18). -/
  devType       : BitVec 3
  /-- Deliver frames addressed to others (R19). -/
  promiscuous   : Bool
  /-- Receive only: never drive the line (R20). -/
  monitor       : Bool
  /-- The logical address, `none` for the spec's -1, unclaimed (R21). [log 4] -/
  la            : Option LogAddr
  /-- The allocator is probing (R22). -/
  allocating    : Bool
  /-- The index of the candidate being probed, 3 bits (R22). With a list of more than eight entries, which R8 (f) admits, it counts
  on past them. [log 5] -/
  candIdx       : Nat
  /-- The protocol state's code, 5 bits (R23). -/
  st            : StateCode
  /-- The wait budget, in µs, `none` for NONE (R27). -/
  waitTime      : Option Nat
  /-- When the current bit period started (R25), in µs. [log 3] -/
  bitStartTime  : Nat
  /-- When the line was last commanded or observed to change (R26), in µs. [log 3] -/
  lineSetTime   : Nat
  /-- The level last observed or commanded (R28). -/
  lastLineState : Level
  /-- The open-drain output (R29). -/
  lineOut       : Level
  /-- The receive buffer (R30). -/
  rxBuf         : Memory
  /-- Data bits received in the current frame, 0 to 128 (R30). [log 5] -/
  rxBitCount    : Nat
  /-- The EOM bit of the byte being received (R31). -/
  rxEom         : Bool
  /-- The frame's forced negative acknowledgement (R31). -/
  rxNak         : Bool
  /-- The frame is addressed to this device (R31). -/
  rxFollower    : Bool
  /-- The frame is a broadcast (R31). -/
  rxBroadcast   : Bool
  /-- The transmit buffer (R32). -/
  txBuf         : Memory
  /-- Bytes pending, header included, 0 to 16 (R32). [log 5] -/
  txByteCount   : Nat
  /-- Data bits of the attempt whose period has been sent, 0 to 128 (R33). [log 5, log 19] -/
  txBitIndex    : Nat
  /-- Retransmissions already made (R34). [log 5] -/
  retry         : Nat
  /-- The most recent frame on the line was this device's own attempt (R35). -/
  lastInitiator : Bool
  deriving DecidableEq, Repr

/-- The operand ports beside the command word (R118): the counter and the payload block. [log 13] -/
structure Operands where
  now     : Nat
  payload : Vector Byte payloadWidth
  deriving DecidableEq, Repr

/-- What the RUN step hands to the arm it selects, `Arm(now, L, changed, el)` (R73). [log 15] -/
structure ArmInputs where
  now     : Nat
  line    : Level
  changed : Bool
  elapsed : Bool
  deriving DecidableEq, Repr

/-- The outputs of the last host operation (R118, R119): XMIT's result, the event list in emission order, and the trace of
the error conditions met (R125). [log 8, log 9] -/
structure Outputs where
  ok     : Option Bool
  events : List Event
  trace  : List Cause
  deriving DecidableEq, Repr

/-- The machine: the block's registers, the parameters it is built with, and its ports. -/
structure State where
  cfg   : Config
  regs  : Regs
  /-- The host operations issued and not yet performed, next first. [log 10] -/
  inbox : List HostOp
  op    : Operands
  arm   : ArmInputs
  out   : Outputs
  deriving DecidableEq, Repr

/-- R137: the registers of a block "constructed inert". -/
def Regs.reset : Regs where
  initialized := false
  physAddr := 0x0000
  devType := 0
  promiscuous := false
  monitor := false
  la := none
  allocating := false
  candIdx := 0
  st := 0
  waitTime := some 0
  bitStartTime := 0
  lineSetTime := 0
  lastLineState := .high
  lineOut := .high
  rxBuf := []
  rxBitCount := 0
  rxEom := false
  rxNak := false
  rxFollower := false
  rxBroadcast := false
  txBuf := []
  txByteCount := 0
  txBitIndex := 0
  retry := 0
  lastInitiator := false

/-- The operand ports before any operation. [log 6] -/
def Operands.reset : Operands := { now := 0, payload := Vector.replicate payloadWidth 0 }

/-- The arm's inputs before any RUN. [log 6] -/
def ArmInputs.reset : ArmInputs := { now := 0, line := .high, changed := false, elapsed := false }

/-- No result, no event, no condition: what the outputs hold before an operation emits anything. -/
def Outputs.empty : Outputs := { ok := none, events := [], trace := [] }

/-- A block with the parameters `cfg`, just created (R137). -/
def State.resetWith (cfg : Config) : State where
  cfg := cfg
  regs := Regs.reset
  inbox := []
  op := Operands.reset
  arm := ArmInputs.reset
  out := Outputs.empty

/-- The machine right after reset, with the default parameters of R7. -/
def State.reset : State := State.resetWith Config.default

end Sys2Proof.Machine
end

