-- ==== Sys2Proof/Machine/Ops.lean ====
section
/-! DEFINITION. The shared operations: the buffers (spec/20_memory.md R39), time differences (spec/00_scope.md R10), the open-drain
drive SetLine (spec/42_transmit.md R93), state changes (spec/40_run_step.md R74), and the arbitration abort, which is the
block's analogue of taking an exception (spec/40_run_step.md R71, spec/60_exceptions.md R128). The block has no trap and no
return from one (R124, R129). -/

namespace Sys2Proof.Machine

/-- The three outcomes of an operation of this machine. -/
abbrev Result := Host.Outcome State Fault Refusal

/-- Program order within one operation (R12): go on with `f` from the next state, or stop as `r` stops. -/
def andThen (r : Result) (f : State → Result) : Result :=
  match r with
  | .next s => f s
  | .fault e => .fault e
  | .refused e => .refused e

/-! ### The buffers -/

/-- The byte at index `i`; an index not listed reads 0x00. -/
def Memory.read : Memory → Nat → Byte
  | [], _ => 0
  | (a, v) :: m, i => if a = i then v else Memory.read m i

/-- Set the byte at index `i`, keeping the indices rising and 0x00 unlisted. -/
def Memory.write : Memory → Nat → Byte → Memory
  | [], i, v => if v = 0 then [] else [(i, v)]
  | (a, w) :: m, i, v =>
    if i < a then (if v = 0 then (a, w) :: m else (i, v) :: (a, w) :: m)
    else if i = a then (if v = 0 then m else (i, v) :: m)
    else (a, w) :: Memory.write m i v

/-- The canonical form from index `lo` on. -/
def Memory.wfFrom : Nat → Memory → Bool
  | _, [] => true
  | lo, (a, v) :: m => decide (lo ≤ a) && decide (v ≠ 0) && Memory.wfFrom (a + 1) m

/-- The canonical form of a buffer: indices strictly rising, no listed byte 0x00. That every listed index is below CAP is a clause of
the invariant (Safety.lean). -/
def Memory.wf (m : Memory) : Bool := Memory.wfFrom 0 m

/-- `MemWrite` of 0x00 at every index (R77, R137). -/
def Memory.zeroed : Memory := []

/-- Write bytes at `i`, `i + 1`, and so on. -/
def Memory.writeList : Memory → Nat → List Byte → Memory
  | m, _, [] => m
  | m, i, b :: bs => Memory.writeList (m.write i b) (i + 1) bs

/-- `MemRead(buf, i)`, defined for 0 ≤ i < CAP only (R39). -/
def memRead (c : Config) (m : Memory) (i : Nat) : Option Byte := if i < c.cap then some (m.read i) else none

/-- `buf[0..n-1]`, where every one of those indices exists (R39, R46). -/
def readBytes (c : Config) (m : Memory) (n : Nat) : Option (List Byte) :=
  if n ≤ c.cap then some ((List.range n).map m.read) else none

/-- Go on with byte `i` of a buffer; an index outside the buffer faults rather than wraps or clips (R39). -/
def withByte (c : Config) (m : Memory) (i : Nat) (k : Byte → Result) : Result :=
  match memRead c m i with
  | some b => k b
  | none => .fault (.bufferIndex i)

/-- Go on with a copy of the first `n` bytes of a buffer (R46, R39). -/
def withBytes (c : Config) (m : Memory) (n : Nat) (k : List Byte → Result) : Result :=
  match readBytes c m n with
  | some bs => k bs
  | none => .fault (.bufferIndex (n - 1))

/-- Go on with `r`, whose accesses lie in the first `n` bytes of a buffer, where every one of those indices exists; an index outside
the buffer faults rather than wraps or clips (R39). -/
def withRoom (c : Config) (n : Nat) (r : Result) : Result :=
  if n ≤ c.cap then r else .fault (.bufferIndex (n - 1))

/-! ### Time -/

/-- `a -t b`, the difference modulo 2^TIME_WIDTH (R10). -/
def timeDiff (c : Config) (a b : Nat) : Nat :=
  (((a : Int) - (b : Int)) % ((2 ^ c.timeWidth : Nat) : Int)).toNat

/-- A window test `|d - c| ≤ m` in exact arithmetic, inclusive at both ends (R75). -/
def inWindow (c m d : Nat) : Bool := decide (c ≤ d + m) && decide (d ≤ c + m)

/-! ### Registers and outputs -/

/-- `emit E` (R11). -/
def emit (e : Event) (s : State) : State := { s with out := { s.out with events := s.out.events ++ [e] } }

/-- Note an error condition in the trace (R125). -/
def note (c : Cause) (s : State) : State := { s with out := { s.out with trace := s.out.trace ++ [c] } }

/-- XMIT's result bit (R121). -/
def setOk (b : Bool) (s : State) : State := { s with out := { s.out with ok := some b } }

/-- `st <- p` with the budget of the successor (R74). -/
def goto (p : Phase) (budget : Option Nat) (s : State) : State :=
  { s with regs := { s.regs with st := p.code, waitTime := budget } }

/-- The return to `IDLE`, whose budget is always 0 (R27, R76). -/
def toIdle (s : State) : State := goto .idle (some 0) s

/-- `bitStartTime <- now` (R25). -/
def markBitStart (s : State) : State := { s with regs := { s.regs with bitStartTime := s.arm.now } }

/-- `SetLine(v)` (R93). -/
def setLine (v : Level) (s : State) : State :=
  emit (.setLine v)
    { s with regs := { s.regs with lineOut := v, lastLineState := v, lineSetTime := s.arm.now } }

/-- The falling edge that begins a transmitted bit, or this device's hold of an ACK bit (R85, R96). -/
def beginLow (s : State) : State := setLine .low (markBitStart s)

/-- The change detector's record of a new level (R67). -/
def observe (line : Level) (now : Nat) (s : State) : State :=
  { s with regs := { s.regs with lastLineState := line, lineSetTime := now } }

/-- Set the frame's forced negative acknowledgement when `b` (R31). -/
def forceNak (b : Bool) (s : State) : State :=
  { s with regs := { s.regs with rxNak := s.regs.rxNak || b } }

/-- Discard the pending frame (R15). -/
def dropFrame (s : State) : State := { s with regs := { s.regs with txByteCount := 0 } }

/-- `lastInitiator <- true` at a resolution (R35). -/
def markInitiator (s : State) : State := { s with regs := { s.regs with lastInitiator := true } }

/-! ### The abort -/

/-- The release of a line this device holds low, as the abort makes it: the output and its event, and no record in
`lastLineState` or `lineSetTime` (R71). -/
def releaseLine (s : State) : State :=
  match s.regs.lineOut with
  | .low => emit (.setLine .high) { s with regs := { s.regs with lineOut := .high } }
  | .high => s

/-- `Abort(now)` (R71): nothing is saved, control goes to `IDLE`, a low output is released, the frame stays pending (R128). -/
def abort (s : State) : State := note .txArbitration (releaseLine (toIdle s))

end Sys2Proof.Machine
end

