-- ==== Sys2Proof/Machine/Operands.lean ====
section
/-! DEFINITION. The operand forms: the counter port (spec/44_host_ops.md R118), measured durations and the bit classifier
(spec/41_receive.md R80), header bytes (spec/30_encoding.md R60), the bit source and low-phase durations
(spec/42_transmit.md R94, R95), and the shift-in of received bits (spec/41_receive.md R81). -/

namespace Sys2Proof.Machine

/-- The operand `now`: the TIME_WIDTH bits of its port (R54, R118). [log 3] -/
def portNow (s : State) : Nat := s.op.now % 2 ^ s.cfg.timeWidth

/-- The duration since the current bit's start, at the RUN that dispatched the arm (R68, R96). -/
def measured (s : State) : Nat := timeDiff s.cfg s.arm.now s.regs.bitStartTime

/-- `Classify(d)` (R80): the bit, and whether the low phase was out of tolerance. -/
def classify (c : Config) (d : Nat) : Bool × Bool :=
  if inWindow c.bitLow1 c.lowMargin d then (true, false)
  else if inWindow c.bitLow0 c.lowMargin d then (false, false)
  else (true, true)

/-- The header byte: initiator in [7:4], destination in [3:0] (R42, R60). -/
def header (source dest : LogAddr) : Byte := source ++ dest

/-- The destination nibble of a header byte (R60). -/
def destOf (h : Byte) : LogAddr := h.extractLsb' 0 4

/-- The initiator nibble of a header byte (R42). -/
def sourceOf (h : Byte) : LogAddr := h.extractLsb' 4 4

/-- `((b << 1) | bit) mod 256` (R75, R81). -/
def shiftByte (b : Byte) (bit : Bool) : Byte := (b <<< 1) ||| (BitVec.ofBool bit).setWidth 8

/-- `ShiftIn(bit)` (R81). -/
def shiftIn (bit : Bool) (s : State) : Result :=
  withByte s.cfg s.regs.rxBuf (s.regs.rxBitCount >>> 3) fun b =>
    .next { s with
      regs := { s.regs with
        rxBuf := s.regs.rxBuf.write (s.regs.rxBitCount >>> 3) (shiftByte b bit)
        rxBitCount := s.regs.rxBitCount + 1 } }

/-- Bit `7 - (i mod 8)` of a byte: the order in which bits go on the line (R40, R94). -/
def lineBit (b : Byte) (i : Nat) : Bool := b.getLsbD (7 - i % 8)

/-- Go on with `TxBit(i)` (R94). -/
def withTxBit (s : State) (i : Nat) (k : Bool → Result) : Result :=
  withByte s.cfg s.regs.txBuf (i >>> 3) fun b => k (lineBit b i)

/-- `LowFor(b)` (R95). -/
def lowFor (c : Config) (b : Bool) : Nat := if b then c.bitLow1 else c.bitLow0

/-- The first `n` bytes of the payload port (R53, R121). -/
def payloadBytes (s : State) (n : Nat) : List Byte := s.op.payload.toList.take n

end Sys2Proof.Machine
end

