-- ==== Sys2Proof/Machine/Flags.lean ====
section
/-! DEFINITION. The conditions and flags the rules compute: the settle, change and budget tests (spec/40_run_step.md R66 to R68), the
arbitration-checked states (R70), the receive flags (spec/41_receive.md R84), the acknowledge drive (R86), the outcome of a
received frame (R91), the acknowledge test (spec/42_transmit.md R105), the signal free time (R76), and the operating mode
(spec/60_exceptions.md R131). -/

namespace Sys2Proof.Machine

/-- The settle time that follows a change to `v` (R66). -/
def settleTime (c : Config) (v : Level) : Nat :=
  match v with
  | .high => c.settleRise
  | .low => c.settleFall

/-- The settle test: less than the settle time has passed since the last recorded change (R66). -/
def settleMasks (s : State) (now : Nat) : Bool :=
  decide (timeDiff s.cfg now s.regs.lineSetTime < settleTime s.cfg s.regs.lastLineState)

/-- `changed`: the sampled level differs from the recorded one (R67). -/
def lineChanged (s : State) (line : Level) : Bool := decide (line ≠ s.regs.lastLineState)

/-- `Elapsed(now)` (R68). -/
def elapsedAt (s : State) (now : Nat) : Bool :=
  match s.regs.waitTime with
  | none => false
  | some d => decide (d ≤ timeDiff s.cfg now s.regs.bitStartTime)

/-- `ARB_STATES` (R70): every transmit state but the acknowledge test and wait. -/
def arbitrated : Phase → Bool
  | .idle => false
  | .rcvStartbit1 => false
  | .rcvStartbit2 => false
  | .rcvDatabit1 => false
  | .rcvDatabit2 => false
  | .rcvEom1 => false
  | .rcvEom2 => false
  | .rcvAckSent => false
  | .rcvAck1 => false
  | .rcvAck2 => false
  | .rcvLineerror => false
  | .xmitWait => true
  | .xmitStartbit1 => true
  | .xmitStartbit2 => true
  | .xmitDatabit1 => true
  | .xmitDatabit2 => true
  | .xmitEom1 => true
  | .xmitEom2 => true
  | .xmitAck1 => true
  | .xmitAckTest => false
  | .xmitAckWait => false
  | .xmitAck2 => true

/-- `st ∈ ARB_STATES`. -/
def inArbStates (s : State) : Bool :=
  match decodePhase s.regs.st with
  | some p => arbitrated p
  | none => false

/-- The destination is the broadcast address (R84, R105). -/
def isBroadcast (c : Config) (h : Byte) : Bool := decide (destOf h = c.laBroadcast)

/-- The follower test: not broadcast, and the destination is the claimed address (R84). -/
def isFollower (s : State) (h : Byte) : Bool :=
  !isBroadcast s.cfg h && decide (s.regs.la = some (destOf h))

/-- `AckDrive()` (R86). -/
def ackDrive (s : State) : Bool :=
  !s.regs.monitor && ((s.regs.rxFollower && !s.regs.rxNak) || (s.regs.rxBroadcast && s.regs.rxNak))

/-- `lineNak`: the negative acknowledgement an ACK bit of value `bit` carries, its sense inverted for broadcast (R88). -/
def lineNak (s : State) (bit : Bool) : Bool := if s.regs.rxBroadcast then !bit else bit

/-- Whether a finished frame is delivered (R91). -/
def delivers (s : State) : Bool := s.regs.rxFollower || s.regs.rxBroadcast || s.regs.promiscuous

/-- The `ack` of a delivered frame: this device gave a positive acknowledgement (R91). -/
def rxAck (s : State) : Bool := !s.regs.monitor && !s.regs.rxNak && (s.regs.rxFollower || s.regs.rxBroadcast)

/-- The acknowledge test: low acknowledges a unicast frame, high a broadcast (R105). -/
def acked (s : State) (line : Level) : Bool :=
  if isBroadcast s.cfg (s.regs.txBuf.read 0) then decide (line = .high) else decide (line = .low)

/-- The signal free time `IDLE` chooses, `n × BIT_TIME` (R76). -/
def freeTime (s : State) : Nat :=
  (if 0 < s.regs.retry then s.cfg.freeRetry else if s.regs.lastInitiator then s.cfg.freePrev else s.cfg.freeNew) *
    s.cfg.bitTime

/-- The operating mode the registers stand in (R131). -/
def Regs.mode (r : Regs) : Mode :=
  if !r.initialized then .unconfigured
  else if r.monitor then .monitor
  else if r.allocating then .allocating
  else if r.la = none then .unclaimed
  else .claimed

/-- The level of the port `line_out`, always that of `lineOut` (R29, R118). -/
def State.linePort (s : State) : Level := s.regs.lineOut

/-- `la` as the spec writes it, the one signed value: -1 or 0 to 15 (R9, R21). -/
def Regs.laSigned (r : Regs) : Int :=
  match r.la with
  | none => -1
  | some a => (a.toNat : Int)

/-- The trace code of an error condition; 0 would mean none (R125). -/
def causeCode : Cause → Nat
  | .rxStartLowRange => 1
  | .rxStartLowTimeout => 2
  | .rxStartTotalRange => 3
  | .rxStartTotalTimeout => 4
  | .rxBitTolerance => 5
  | .rxOverflow => 6
  | .rxHighTimeout => 7
  | .rxLineError => 8
  | .txArbitration => 9
  | .txNakRetry => 10
  | .txNakFinal => 11
  | .txProbeNak => 12
  | .xmitNoLa => 13
  | .xmitMonitor => 14
  | .xmitPending => 15
  | .xmitTooLong => 16

end Sys2Proof.Machine
end

