-- ==== Sys2Proof/Machine/Receive.lean ====
section
/-! DEFINITION. The IDLE arm and the ten receive arms, codes 0 to 10 (spec/41_receive.md R76 to R91). In every arm that has both, the
`changed` case wins over the elapsed budget (R73). -/

namespace Sys2Proof.Machine

/-- `StartFrame(now)` (R77). -/
def startFrame (s : State) : State :=
  goto .rcvStartbit1 (some s.cfg.startLowTimeout)
    { s with
      regs := { s.regs with
        rxBuf := Memory.zeroed
        rxBitCount := 0
        rxEom := false
        rxNak := false
        rxFollower := false
        rxBroadcast := false
        lastInitiator := false
        bitStartTime := s.arm.now } }

/-- A receive error that abandons the frame silently: the condition noted, and `IDLE` (R78, R79, R83, R85, R89, R92). -/
def abandon (c : Cause) (s : State) : State := note c (toIdle s)

/-- A receive low phase longer than LINE_ERROR_LOW (R82, R84, R88, R90). -/
def lineError (s : State) : State := note .rxLineError (goto .rcvLineerror none s)

/-- The bit of the low phase that ends now (R80). -/
def measuredBit (s : State) : Bool := (classify s.cfg (measured s)).1

/-- Whether the low phase that ends now is out of tolerance (R80). -/
def outOfTolerance (s : State) : Bool := (classify s.cfg (measured s)).2

/-- The classified low phase's error, forced on the frame: what R82, R84 and R88 begin with. -/
def noteTolerance (s : State) : State :=
  forceNak (outOfTolerance s) (if outOfTolerance s then note .rxBitTolerance s else s)

/-- `Deliver(now)` (R91). -/
def deliver (s : State) : Result :=
  if delivers s then
    withBytes s.cfg s.regs.rxBuf (s.regs.rxBitCount / 8) fun bs =>
      .next (toIdle (emit (.rxComplete bs (s.regs.rxBitCount / 8) (rxAck s)) s))
  else .next (toIdle s)

/-- After an ACK bit: the frame ends here, or goes on with the bit's high phase (R87, R88). -/
def endBlock (ends : Bool) (s : State) : Result :=
  if ends then deliver s else .next (goto .rcvAck2 (some s.cfg.rxHighTimeout) s)

/-- ARM.IDLE (R76). -/
def execArmIdle (s : State) : Result :=
  if s.arm.changed = true ∧ s.arm.line = .low then .next (startFrame s)
  else if s.arm.line = .high ∧ 0 < s.regs.txByteCount ∧ s.regs.monitor = false then
    .next (goto .xmitWait (some (freeTime s)) (markBitStart s))
  else .next s

/-- ARM.RCV_STARTBIT1 (R78). -/
def execArmRcvStartbit1 (s : State) : Result :=
  if s.arm.changed then
    if inWindow s.cfg.startLow s.cfg.lowMargin (measured s) then
      .next (goto .rcvStartbit2 (some s.cfg.startTotalTimeout) s)
    else .next (abandon .rxStartLowRange s)
  else if s.arm.elapsed then .next (abandon .rxStartLowTimeout s)
  else .next s

/-- ARM.RCV_STARTBIT2 (R79). -/
def execArmRcvStartbit2 (s : State) : Result :=
  if s.arm.changed then
    if inWindow s.cfg.startTotal s.cfg.periodMargin (measured s) then
      .next (goto .rcvDatabit1 (some s.cfg.lineErrorLow) (markBitStart s))
    else .next (abandon .rxStartTotalRange s)
  else if s.arm.elapsed then .next (abandon .rxStartTotalTimeout s)
  else .next s

/-- ARM.RCV_DATABIT1 (R82). -/
def execArmRcvDatabit1 (s : State) : Result :=
  if s.arm.changed then
    andThen (shiftIn (measuredBit s) (noteTolerance s)) fun t =>
      .next (goto .rcvDatabit2 (some t.cfg.rxHighTimeout) t)
  else if s.arm.elapsed then .next (lineError s)
  else .next s

/-- ARM.RCV_DATABIT2 (R83). -/
def execArmRcvDatabit2 (s : State) : Result :=
  if s.arm.changed then
    .next (goto (if s.regs.rxBitCount % 8 = 0 then .rcvEom1 else .rcvDatabit1) (some s.cfg.lineErrorLow) (markBitStart s))
  else if s.arm.elapsed then .next (abandon .rxHighTimeout s)
  else .next s

/-- A block after which the frame may not go on: the last the buffer holds, with EOM = 0 (R84). -/
def overflows (s : State) : Bool := decide (s.regs.rxBitCount = 8 * s.cfg.cap) && !s.regs.rxEom

/-- The EOM bit and the header inspection (R84). -/
def inspectHeader (eom : Bool) (s : State) : State :=
  let h := s.regs.rxBuf.read 0
  { s with
    regs := { s.regs with rxEom := eom, rxBroadcast := isBroadcast s.cfg h, rxFollower := isFollower s h } }

/-- The overflow's forced negative acknowledgement (R84). -/
def noteOverflow (s : State) : State :=
  forceNak (overflows s) (if overflows s then note .rxOverflow s else s)

/-- ARM.RCV_EOM1 (R84). -/
def execArmRcvEom1 (s : State) : Result :=
  if s.arm.changed then
    withRoom s.cfg 1
      (.next (goto .rcvEom2 (some s.cfg.rxHighTimeout) (noteOverflow (inspectHeader (measuredBit s) (noteTolerance s)))))
  else if s.arm.elapsed then .next (lineError s)
  else .next s

/-- ARM.RCV_EOM2 (R85). -/
def execArmRcvEom2 (s : State) : Result :=
  if s.arm.changed then
    if ackDrive s then .next (goto .rcvAckSent (some s.cfg.bitLow0) (beginLow s))
    else .next (goto .rcvAck1 (some s.cfg.lineErrorLow) (markBitStart s))
  else if s.arm.elapsed then .next (abandon .rxHighTimeout s)
  else .next s

/-- ARM.RCV_ACK_SENT (R87). -/
def execArmRcvAckSent (s : State) : Result :=
  if s.arm.elapsed then endBlock (s.regs.rxEom || s.regs.rxNak) (setLine .high s) else .next s

/-- ARM.RCV_ACK1 (R88). -/
def execArmRcvAck1 (s : State) : Result :=
  if s.arm.changed then
    let t := noteTolerance s
    endBlock (t.regs.rxEom || t.regs.rxNak || lineNak t (measuredBit s)) t
  else if s.arm.elapsed then .next (lineError s)
  else .next s

/-- ARM.RCV_ACK2 (R89). -/
def execArmRcvAck2 (s : State) : Result :=
  if s.arm.changed then .next (goto .rcvDatabit1 (some s.cfg.lineErrorLow) (markBitStart s))
  else if s.arm.elapsed then .next (abandon .rxHighTimeout s)
  else .next s

/-- ARM.RCV_LINEERROR (R90). -/
def execArmRcvLineerror (s : State) : Result :=
  if s.arm.changed = true ∧ s.arm.line = .high then .next (toIdle s) else .next s

end Sys2Proof.Machine
end

