-- ==== Sys2Proof/Machine/Allocator.lean ====
section
/-! DEFINITION. The logical-address polling arbiter (spec/43_allocator.md R112 to R116). It has no state machine of its own: INIT
starts it, and the transmit path's resolutions step it. -/

namespace Sys2Proof.Machine

/-- The candidate list of the device (R111). -/
def candidatesFor (s : State) : List LogAddr := s.cfg.candidatesOf s.regs.devType

/-- The staged probe: the one-byte frame whose source and destination are the candidate (R113). -/
def probeStaged (c : LogAddr) (s : State) : State :=
  { s with
    regs := { s.regs with
      txBuf := s.regs.txBuf.write 0 (header c c)
      txByteCount := 1
      retry := 0 } }

/-- `StageProbe(c)` (R113). -/
def stageProbe (c : LogAddr) (s : State) : Result := withRoom s.cfg 1 (.next (probeStaged c s))

/-- `AllocStart()` (R112). -/
def allocStart (s : State) : Result :=
  match candidatesFor s with
  | [] => .next s
  | c :: _ =>
    if s.regs.physAddr ≠ s.cfg.physBroadcast ∧ s.regs.monitor = false then
      stageProbe c { s with regs := { s.regs with allocating := true, candIdx := 0 } }
    else .next s

/-- Take the address `a` and report it: the common part of the claim and the fallback (R115, R116). -/
def takeAddress (a : LogAddr) (s : State) : State :=
  emit (.ready a) { s with regs := { s.regs with la := some a, allocating := false } }

/-- `AllocClaim()`: the candidate whose probe went unacknowledged (R115). -/
def allocClaim (s : State) : Result :=
  match (candidatesFor s)[s.regs.candIdx]? with
  | some c => .next (takeAddress c s)
  | none => .fault (.candidateIndex s.regs.candIdx)

/-- `AllocFallback()`: the shared unregistered address, which is never probed (R116). -/
def allocFallback (s : State) : State := takeAddress s.cfg.laUnregistered s

/-- An acknowledged probe: another device owns the candidate, so the next one is staged, or the fallback taken (R114). The index is
not cut to the 3 bits of `candIdx`: the spec does not say what becomes of it in a list of more than eight entries, which R8 (f)
admits, and the model counts on. DESIGN CHOICE. [log 5] -/
def allocAdvance (s : State) : Result :=
  let t := { s with regs := { s.regs with candIdx := s.regs.candIdx + 1 } }
  match (candidatesFor t)[t.regs.candIdx]? with
  | none => .fault (.candidateIndex t.regs.candIdx)
  | some c => if c = s.cfg.laUnregistered then .next (allocFallback t) else stageProbe c t

/-- `AllocStep(acked)` (R114). -/
def allocStep (probeAcked : Bool) (s : State) : Result :=
  if probeAcked then allocAdvance s else allocClaim s

end Sys2Proof.Machine
end

