-- ==== Sys2Proof/Machine/Transmit.lean ====
section
/-! DEFINITION. The eleven transmit arms, codes 11 to 21, and the resolutions of an attempt (spec/42_transmit.md R97 to R109). Each acts
only at its deadline; an unexpected change has aborted the attempt before the arm is reached (R71), but for the
acknowledge test and wait. -/

namespace Sys2Proof.Machine

/-- The drop of the pending frame with its one report (R108, R109, R46). -/
def reportAndDrop (success : Bool) (s : State) : Result :=
  withBytes s.cfg s.regs.txBuf s.regs.txByteCount fun bs =>
    .next (dropFrame (emit (.txComplete bs s.regs.txByteCount success) s))

/-- Step the allocator where the resolved frame was its probe (R108, R109). -/
def stepIfAllocating (probeAcked : Bool) (s : State) : Result :=
  if s.regs.allocating then allocStep probeAcked s else .next s

/-- `FailAttempt(now)` (R108). The counter is not cut to the 3 bits of `retry`: R8 does not bound MAX_RETRIES, and with more than 7 the
model counts on. DESIGN CHOICE. [log 5] -/
def failAttempt (s : State) : Result :=
  let t := markInitiator s
  if t.regs.txByteCount = 1 then
    andThen (reportAndDrop false (note .txProbeNak t)) (stepIfAllocating false)
  else if t.regs.retry < t.cfg.maxRetries then
    .next (note .txNakRetry { t with regs := { t.regs with retry := t.regs.retry + 1 } })
  else reportAndDrop false (note .txNakFinal t)

/-- `Succeed(now)` (R109). -/
def succeed (s : State) : Result :=
  andThen (reportAndDrop true (markInitiator s)) (stepIfAllocating true)

/-- The end of a driven low phase: release, and wait in `p` (R98, R100, R102, R104). -/
def releaseTo (p : Phase) (budget : Nat) (s : State) : Result :=
  if s.arm.elapsed then .next (goto p (some budget) (setLine .high s)) else .next s

/-- The low phase of data bit `txBitIndex` has begun: wait its duration (R99, R101, R107). -/
def sendDataBit (s : State) : Result :=
  withTxBit s s.regs.txBitIndex fun b => .next (goto .xmitDatabit1 (some (lowFor s.cfg b)) s)

/-- ARM.XMIT_WAIT (R97). -/
def execArmXmitWait (s : State) : Result :=
  if s.arm.elapsed then
    .next (goto .xmitStartbit1 (some s.cfg.startLow) (beginLow { s with regs := { s.regs with txBitIndex := 0 } }))
  else .next s

/-- ARM.XMIT_STARTBIT1 (R98). -/
def execArmXmitStartbit1 (s : State) : Result := releaseTo .xmitStartbit2 s.cfg.startTotal s

/-- ARM.XMIT_STARTBIT2 (R99): data bit 0 begins. -/
def execArmXmitStartbit2 (s : State) : Result :=
  if s.arm.elapsed then
    withTxBit s 0 fun b => .next (goto .xmitDatabit1 (some (lowFor s.cfg b)) (beginLow s))
  else .next s

/-- ARM.XMIT_DATABIT1 (R100). -/
def execArmXmitDatabit1 (s : State) : Result := releaseTo .xmitDatabit2 s.cfg.bitTime s

/-- The bit after a whole byte is its EOM bit, 1 on the block of the last byte (R101). -/
def sendEomBit (s : State) : State :=
  goto .xmitEom1 (some (lowFor s.cfg (decide (s.regs.txBitIndex = 8 * s.regs.txByteCount)))) s

/-- ARM.XMIT_DATABIT2 (R101). -/
def execArmXmitDatabit2 (s : State) : Result :=
  if s.arm.elapsed then
    let t := beginLow { s with regs := { s.regs with txBitIndex := s.regs.txBitIndex + 1 } }
    if t.regs.txBitIndex % 8 = 0 then .next (sendEomBit t) else sendDataBit t
  else .next s

/-- ARM.XMIT_EOM1 (R102). -/
def execArmXmitEom1 (s : State) : Result := releaseTo .xmitEom2 s.cfg.bitTime s

/-- ARM.XMIT_EOM2 (R103): the ACK bit begins, sent as a 1. -/
def execArmXmitEom2 (s : State) : Result :=
  if s.arm.elapsed then .next (goto .xmitAck1 (some s.cfg.bitLow1) (beginLow s)) else .next s

/-- ARM.XMIT_ACK1 (R104). -/
def execArmXmitAck1 (s : State) : Result := releaseTo .xmitAckTest s.cfg.ackSample s

/-- An acknowledged byte that is not the last: wait for the follower's release, or for the end of the bit (R105). -/
def nextBlock (s : State) : State :=
  match s.arm.line with
  | .low => goto .xmitAckWait none s
  | .high => goto .xmitAck2 (some s.cfg.bitTime) s

/-- The byte is resolved at the sample point, on the level `L` and the header's destination (R105). -/
def resolveByte (s : State) : Result :=
  if !acked s s.arm.line then andThen (failAttempt s) fun t => .next (toIdle t)
  else if s.regs.txBitIndex = 8 * s.regs.txByteCount then andThen (succeed s) fun t => .next (toIdle t)
  else .next (nextBlock s)

/-- ARM.XMIT_ACK_TEST (R105). Only the level at the sample counts. -/
def execArmXmitAckTest (s : State) : Result :=
  if s.arm.elapsed then withRoom s.cfg 1 (resolveByte s) else .next s

/-- ARM.XMIT_ACK_WAIT (R106). -/
def execArmXmitAckWait (s : State) : Result :=
  if s.arm.changed = true ∧ s.arm.line = .high then .next (goto .xmitAck2 (some s.cfg.bitTime) s) else .next s

/-- ARM.XMIT_ACK2 (R107). -/
def execArmXmitAck2 (s : State) : Result :=
  if s.arm.elapsed then sendDataBit (beginLow s) else .next s

end Sys2Proof.Machine
end

