-- ==== Sys2Proof/Machine/HostOps.lean ====
section
/-! DEFINITION. The three host operations (spec/44_host_ops.md R120 to R122) and the RUN step (spec/40_run_step.md R65 to R73). -/

namespace Sys2Proof.Machine

/-- INIT's writes to the configuration registers (R52, R120). -/
def configure (pa : BitVec 16) (dtype : BitVec 3) (prom mon : Bool) (s : State) : State :=
  { s with
    regs := { s.regs with initialized := true, physAddr := pa, devType := dtype, promiscuous := prom, monitor := mon } }

/-- INIT (R120). -/
def execInit (pa : BitVec 16) (dtype : BitVec 3) (prom mon : Bool) (s : State) : Result :=
  if s.regs.initialized then .refused .secondInit
  else allocStart (configure pa dtype prom mon s)

/-- A rejection of XMIT: `ok` = 0 and no other change; the trace reports the condition (R121, R126). -/
def rejectXmit (c : Cause) (s : State) : Result := .next (setOk false (note c s))

/-- The frame XMIT stages: the header, then the payload (R121). -/
def stageFrame (source target : LogAddr) (len : Nat) (s : State) : State :=
  { s with
    regs := { s.regs with
      txBuf := (s.regs.txBuf.write 0 (header source target)).writeList 1 (payloadBytes s len)
      txByteCount := len + 1
      retry := 0 } }

/-- XMIT (R121). The four rejections are tested in the trace's order, 13 to 16 (R126). -/
def execXmit (target : LogAddr) (len : BitVec 5) (s : State) : Result :=
  match s.regs.la with
  | none => rejectXmit .xmitNoLa s
  | some a =>
    if s.regs.monitor then rejectXmit .xmitMonitor s
    else if s.regs.txByteCount ≠ 0 then rejectXmit .xmitPending s
    else if s.cfg.maxPayload < len.toNat then rejectXmit .xmitTooLong s
    else withRoom s.cfg (len.toNat + 1) (.next (setOk true (stageFrame a target len.toNat s)))

/-- The arm a state code selects, with its effect (R56, R73); a code that names no state is refused (R57). -/
def dispatchArm (s : State) : Result :=
  match decodePhase s.regs.st with
  | none => .refused .reservedState
  | some .idle => execArmIdle s
  | some .rcvStartbit1 => execArmRcvStartbit1 s
  | some .rcvStartbit2 => execArmRcvStartbit2 s
  | some .rcvDatabit1 => execArmRcvDatabit1 s
  | some .rcvDatabit2 => execArmRcvDatabit2 s
  | some .rcvEom1 => execArmRcvEom1 s
  | some .rcvEom2 => execArmRcvEom2 s
  | some .rcvAckSent => execArmRcvAckSent s
  | some .rcvAck1 => execArmRcvAck1 s
  | some .rcvAck2 => execArmRcvAck2 s
  | some .rcvLineerror => execArmRcvLineerror s
  | some .xmitWait => execArmXmitWait s
  | some .xmitStartbit1 => execArmXmitStartbit1 s
  | some .xmitStartbit2 => execArmXmitStartbit2 s
  | some .xmitDatabit1 => execArmXmitDatabit1 s
  | some .xmitDatabit2 => execArmXmitDatabit2 s
  | some .xmitEom1 => execArmXmitEom1 s
  | some .xmitEom2 => execArmXmitEom2 s
  | some .xmitAck1 => execArmXmitAck1 s
  | some .xmitAckTest => execArmXmitAckTest s
  | some .xmitAckWait => execArmXmitAckWait s
  | some .xmitAck2 => execArmXmitAck2 s

/-- The change detector and the arbitration check that follows it (R67, R71). -/
def detect (line : Level) (now : Nat) (s : State) : State :=
  if lineChanged s line then
    if inArbStates s then abort (observe line now s) else observe line now s
  else s

/-- The values the step hands to the arm, `el` recomputed after an abort (R65, R73). -/
def latchArm (line : Level) (now : Nat) (changed : Bool) (s : State) : State :=
  { s with arm := { now := now, line := line, changed := changed, elapsed := elapsedAt s now } }

/-- Whether the RUN does nothing: inside the settle window (R66), or no change and no elapsed budget (R69). -/
def isQuiet (line : Level) (now : Nat) (s : State) : Bool :=
  settleMasks s now || (!lineChanged s line && !elapsedAt s now)

/-- The prologue of a RUN that is not quiet: the state the arm runs in (R65). -/
def prologue (line : Level) (now : Nat) (s : State) : State :=
  latchArm line now (lineChanged s line) (detect line now s)

/-- `RunStep(now, L)` (R65). -/
def runStep (line : Level) (now : Nat) (s : State) : Result :=
  if isQuiet line now s then .next s else dispatchArm (prologue line now s)

/-- RUN (R122). The refusals come before the settle test (R126). -/
def execRun (line : Level) (s : State) : Result :=
  if !s.regs.initialized then .refused .runBeforeInit
  else
    match decodePhase s.regs.st with
    | none => .refused .reservedState
    | some _ => runStep line (portNow s) s

end Sys2Proof.Machine
end

