-- ==== Sys2Proof/Machine/Dispatch.lean ====
section
/-! DEFINITION. One arm per instruction, each a direct call of its meaning. -/

namespace Sys2Proof.Machine

def exec (i : Instr) (s : State) : Host.Outcome State Fault Refusal :=
  match i with
  | .init pa dtype prom mon => Sys2Proof.Machine.execInit pa dtype prom mon s
  | .xmit target len => Sys2Proof.Machine.execXmit target len s
  | .run line => Sys2Proof.Machine.execRun line s
  | .armIdle => Sys2Proof.Machine.execArmIdle s
  | .armRcvStartbit1 => Sys2Proof.Machine.execArmRcvStartbit1 s
  | .armRcvStartbit2 => Sys2Proof.Machine.execArmRcvStartbit2 s
  | .armRcvDatabit1 => Sys2Proof.Machine.execArmRcvDatabit1 s
  | .armRcvDatabit2 => Sys2Proof.Machine.execArmRcvDatabit2 s
  | .armRcvEom1 => Sys2Proof.Machine.execArmRcvEom1 s
  | .armRcvEom2 => Sys2Proof.Machine.execArmRcvEom2 s
  | .armRcvAckSent => Sys2Proof.Machine.execArmRcvAckSent s
  | .armRcvAck1 => Sys2Proof.Machine.execArmRcvAck1 s
  | .armRcvAck2 => Sys2Proof.Machine.execArmRcvAck2 s
  | .armRcvLineerror => Sys2Proof.Machine.execArmRcvLineerror s
  | .armXmitWait => Sys2Proof.Machine.execArmXmitWait s
  | .armXmitStartbit1 => Sys2Proof.Machine.execArmXmitStartbit1 s
  | .armXmitStartbit2 => Sys2Proof.Machine.execArmXmitStartbit2 s
  | .armXmitDatabit1 => Sys2Proof.Machine.execArmXmitDatabit1 s
  | .armXmitDatabit2 => Sys2Proof.Machine.execArmXmitDatabit2 s
  | .armXmitEom1 => Sys2Proof.Machine.execArmXmitEom1 s
  | .armXmitEom2 => Sys2Proof.Machine.execArmXmitEom2 s
  | .armXmitAck1 => Sys2Proof.Machine.execArmXmitAck1 s
  | .armXmitAckTest => Sys2Proof.Machine.execArmXmitAckTest s
  | .armXmitAckWait => Sys2Proof.Machine.execArmXmitAckWait s
  | .armXmitAck2 => Sys2Proof.Machine.execArmXmitAck2 s

end Sys2Proof.Machine
end

