-- ==== Sys2Proof/Machine/HostPort.lean ====
section
/-! DEFINITION. The host boundary: how one host operation is taken from the ports, decoded and performed (spec/30_encoding.md R51, R55,
spec/60_exceptions.md R126, R127), what the machine does when nothing is queued (R136), and the placing of a word where the
next step takes it. -/

namespace Sys2Proof.Machine

/-- The operation's operands at the ports, and fresh outputs: each operation returns its own result and event list
(R118, R119). -/
def State.accept (op : HostOp) (s : State) : State :=
  { s with op := { now := op.now, payload := op.payload }, out := Outputs.empty }

/-- One host operation. The host-level refusals come first, and change no state (R126, R127). [log 11] -/
def performOp (op : HostOp) (s : State) : Result :=
  if !s.cfg.ok then .refused .badParams
  else if op.overlap then .refused .overlap
  else
    match decodeCommand op.cw with
    | .accept i => exec i (s.accept op)
    | .reservedOpcode => .refused .reservedCmd
    | .reservedBits => .refused .reservedCmd
    | .reservedStateCode => .refused .reservedCmd

/-- No operation queued: between host operations the block is inert and keeps all its state (R136). -/
def inert (s : State) : Result := if !s.cfg.ok then .refused .badParams else .next s

/-- The host queues an operation after those it has issued (R47). [log 10] -/
def State.offer (op : HostOp) (s : State) : State := { s with inbox := s.inbox ++ [op] }

/-- A host operation with no payload bytes and the counter at `now`. -/
def bareOp (cw : BitVec 32) (now : Nat) : HostOp :=
  { cw := cw, payload := Vector.replicate payloadWidth 0, now := now, overlap := false }

/-- The registers with which the next RUN runs the arm of code `c`: an initialised block in that state whose budget has
elapsed. [log 14] -/
def readyForArm (c : StateCode) (r : Regs) : Regs :=
  { r with initialized := true, st := c, waitTime := some 0 }

/-- The RUN that passes the settle test of the registers `r` with the line unchanged. [log 14] -/
def runPastSettle (cfg : Config) (r : Regs) : HostOp :=
  bareOp (encodeRun r.lastLineState) (r.lineSetTime + settleTime cfg r.lastLineState)

/-- The registers a command word needs: RUN is admitted only on an initialised block (R139), INIT only on one that is not.
[log 14] -/
def readyForCommand (cw : BitVec 32) (r : Regs) : Regs :=
  match decodeCommand cw with
  | .accept (.run _) => { r with initialized := true }
  | .accept (.init _ _ _ _) => { r with initialized := false }
  | _ => r

/-- Place a word of the block where the next step takes it. [log 14] -/
def State.withWord (w : MachineWord) (s : State) : State :=
  match w with
  | .command cw => { s with regs := readyForCommand cw s.regs, inbox := [bareOp cw 0] }
  | .stateCode c => { s with regs := readyForArm c s.regs, inbox := [runPastSettle s.cfg s.regs] }

end Sys2Proof.Machine
end

