-- ==== Sys2Proof/Machine/Step.lean ====
section
/-! DEFINITION. One step of the machine: the next host operation the host has issued, or nothing when none is queued. -/

namespace Sys2Proof.Machine

/-- A step performs the next queued host operation whole (spec/20_memory.md R44). -/
def step (s : State) : Host.Outcome State Fault Refusal :=
  match s.inbox with
  | [] => inert s
  | op :: rest => performOp op { s with inbox := rest }

/-- `s` with the word `w` of `nbits` bits placed as the next operation: a command word as the next host operation, a state
code as the state of a block whose next operation is a RUN that dispatches it. [log 14] -/
def State.withFetchWord (s : State) (nbits w : Nat) : State := s.withWord (tableWord nbits w)

end Sys2Proof.Machine
end

