-- ==== Sys2Proof/Machine/Harness.lean ====
section
/-! DEFINITION. What stands around one block: the host's program notation (spec/30_encoding.md R64), a session of host operations that
records refusals and changes no state for them (R55), and the multi-device bus with its two stepping orders
(spec/60_exceptions.md R135). [log 20, log 24 to log 27] -/

namespace Sys2Proof.Machine

/-! ### Program notation (R64) -/

/-- `INIT pa type prom mon`. -/
def initOp (pa : BitVec 16) (dtype : BitVec 3) (prom mon : Bool) : HostOp := bareOp (encodeInit pa dtype prom mon) 0

/-- The payload port with `bs` on its first bytes. -/
def payloadPort (bs : List Byte) : Vector Byte payloadWidth := Vector.ofFn fun i : Fin payloadWidth => bs.getD i.val 0

/-- `XMIT dst [b0, b1, ...]`, the length being the number of bytes listed. A line that lists more than 31 bytes has no encoding (R53), and
the spec does not say what it is: the model takes its length modulo 32 and its first 31 bytes. DESIGN CHOICE. [log 25] -/
def xmitOp (target : LogAddr) (bs : List Byte) : HostOp :=
  { cw := encodeXmit target (BitVec.ofNat 5 bs.length), payload := payloadPort bs, now := 0, overlap := false }

/-- `RUN t line`. -/
def runOp (line : Level) (now : Nat) : HostOp := bareOp (encodeRun line) now

/-- The times `t0 + k * d`, k = 0, 1, ..., that are at most `t1`. A step of 0, for which R64 lists times without end, gives none.
DESIGN CHOICE. [log 25] -/
def timesFrom (t0 t1 d : Nat) : List Nat :=
  if t1 < t0 ∨ d = 0 then [] else (List.range ((t1 - t0) / d + 1)).map fun k => t0 + k * d

/-- `RUNS t0..t1 step d line=f`. -/
def runsOp (t0 t1 d : Nat) (line : Nat → Level) : List HostOp :=
  (timesFrom t0 t1 d).map fun t => runOp (line t) t

/-! ### A session of host operations -/

/-- What the host sees of one operation: its result and events, or its refusal (R55, R118, R119). -/
inductive Response
  | done (ok : Option Bool) (events : List Event)
  | refused (r : Refusal)
  deriving DecidableEq, Repr

/-- A block and the responses it has given, oldest first. -/
structure Session where
  machine : State
  log     : List Response
  deriving DecidableEq, Repr

/-- Perform one operation. A refusal is recorded and changes no state (R55, R127); a fault ends the session (R39). -/
def Session.perform (op : HostOp) (x : Session) : Option Session :=
  match performOp op x.machine with
  | .next t => some { machine := t, log := x.log ++ [.done t.out.ok t.out.events] }
  | .refused r => some { machine := x.machine, log := x.log ++ [.refused r] }
  | .fault _ => none

/-- Perform a list of operations in order (R47). -/
def Session.run : List HostOp → Session → Option Session
  | [], x => some x
  | op :: ops, x =>
    match x.perform op with
    | some y => Session.run ops y
    | none => none

/-- The events of a response. -/
def Response.events : Response → List Event
  | .done _ es => es
  | .refused _ => []

/-- Every event of the session, in emission order (R47). -/
def Session.events (x : Session) : List Event := x.log.flatMap Response.events

/-- A session on a block just created (R137, R139). -/
def Session.fresh (cfg : Config) : Session := { machine := State.resetWith cfg, log := [] }

/-! ### The bus -/

/-- The devices on one line, and the level of any driver not modelled, HIGH when there is none (R135); the spec gives it no law.
[log 27] -/
structure Bus where
  devices : List State
  ext     : Level
  deriving DecidableEq, Repr

/-- The line level, `ext ∧ ⋀_d lineOut_d` (R135). -/
def Bus.level (b : Bus) : Level :=
  if b.ext = .high ∧ ∀ d ∈ b.devices, d.linePort = .high then .high else .low

/-- One device executes `RUN t line`. -/
def runDevice (t : Nat) (line : Level) (d : State) : Result := performOp (runOp line t) d

/-- The devices `todo` run in order, each sampling the bus as the devices before it have left it. A device whose RUN is refused or
faults, of which R64 and R135 say nothing, stops the whole tick, and the steps of the others are dropped. DESIGN CHOICE.
[log 26] -/
def Bus.tickRest (t : Nat) (ext : Level) (done : List State) : List State → Host.Outcome Bus Fault Refusal
  | [] => .next { devices := done, ext := ext }
  | d :: todo =>
    match runDevice t (Bus.level { devices := done ++ d :: todo, ext := ext }) d with
    | .next d' => Bus.tickRest t ext (done ++ [d']) todo
    | .fault e => .fault e
    | .refused e => .refused e

/-- `TICK t`: sequential stepping (R64, R135). The external level is one throughout the tick. DESIGN CHOICE. [log 27] -/
def Bus.tick (t : Nat) (b : Bus) : Host.Outcome Bus Fault Refusal := Bus.tickRest t b.ext [] b.devices

/-- The devices `todo` run on one sampled level. A RUN that is refused or faults stops the whole tick. DESIGN CHOICE. [log 26] -/
def Bus.tickOn (t : Nat) (ext line : Level) (done : List State) : List State → Host.Outcome Bus Fault Refusal
  | [] => .next { devices := done, ext := ext }
  | d :: todo =>
    match runDevice t line d with
    | .next d' => Bus.tickOn t ext line (done ++ [d']) todo
    | .fault e => .fault e
    | .refused e => .refused e

/-- `TICK_SIM t`: every device samples the bus as it stood before any ran (R64, R135). The tick leaves the external level as it was. DESIGN
CHOICE. [log 27] -/
def Bus.tickSim (t : Nat) (b : Bus) : Host.Outcome Bus Fault Refusal := Bus.tickOn t b.ext b.level [] b.devices

/-- `TICKS` or `TICKS_SIM`, for `tick` one of the two orders, at each of the times. How the external level evolves from tick to tick
the spec does not say: it is an input here, `ext t` at the tick of time `t`, whatever the level before. DESIGN CHOICE. [log 27] -/
def Bus.ticks (tick : Nat → Bus → Host.Outcome Bus Fault Refusal) (ext : Nat → Level) :
    List Nat → Bus → Host.Outcome Bus Fault Refusal
  | [], b => .next b
  | t :: ts, b =>
    match tick t { b with ext := ext t } with
    | .next b' => Bus.ticks tick ext ts b'
    | .fault e => .fault e
    | .refused e => .refused e

end Sys2Proof.Machine
end

