-- ==== Sys2Proof/Safety.lean ====
section
/-! DEFINITION. The terms claims use: the views of an outcome, the invariant of the registers (the invariants spec/10_state.md states,
and the ones its rules keep), the states a run from reset reaches, and the host's cadence duty (spec/70_reset_and_hazards.md
R141). -/

namespace Sys2Proof.Machine

/-! ### Views of an outcome -/

/-- The next state, where there is one. -/
def nextOf (r : Result) : Option State :=
  match r with
  | .next s => some s
  | .fault _ => none
  | .refused _ => none

/-- The refusal, where there is one. -/
def refusalOf (r : Result) : Option Refusal :=
  match r with
  | .next _ => none
  | .fault _ => none
  | .refused e => some e

/-- The fault, where there is one. -/
def faultOf (r : Result) : Option Fault :=
  match r with
  | .next _ => none
  | .fault e => some e
  | .refused _ => none

/-- The operation does not fault. -/
def NoFault (r : Result) : Prop := faultOf r = none

/-- `s` after an instruction that leaves the registers `r`, emits the events `es` and meets the conditions `cs`, and touches
nothing else: the parameters, the queue, the operand ports, the arm's inputs and XMIT's result stay. -/
def State.after (s : State) (r : Regs) (es : List Event) (cs : List Cause) : State :=
  { s with regs := r, out := { s.out with events := s.out.events ++ es, trace := s.out.trace ++ cs } }

/-- The addresses that the READY events of a list report, in order (R119). -/
def readyAddresses (es : List Event) : List LogAddr :=
  es.filterMap fun e =>
    match e with
    | .ready a => some a
    | .setLine _ => none
    | .rxComplete _ _ _ => none
    | .txComplete _ _ _ => none

/-- The reports that the TX_COMPLETE events of a list make, in order (R119). -/
def txReports (es : List Event) : List (List Byte × Nat × Bool) :=
  es.filterMap fun e =>
    match e with
    | .txComplete bs n ok => some (bs, n, ok)
    | .setLine _ => none
    | .rxComplete _ _ _ => none
    | .ready _ => none

/-- The levels that the SET_LINE events of a list command, in order (R119). -/
def lineDrives (es : List Event) : List Level :=
  es.filterMap fun e =>
    match e with
    | .setLine v => some v
    | .rxComplete _ _ _ => none
    | .txComplete _ _ _ => none
    | .ready _ => none

/-- The first `n` bytes of a buffer, as the events copy them (R46). -/
def bytesOf (m : Memory) (n : Nat) : List Byte := (List.range n).map m.read

/-- The bits of an `n`-byte frame in the order they go on the line: bytes by index, most significant bit first (R40, R41). -/
def frameBits (m : Memory) (n : Nat) : List Bool := (List.range (8 * n)).map fun i => lineBit (m.read (i / 8)) i

/-- `ShiftIn` of each bit in turn (R81). -/
def shiftInAll : List Bool → State → Result
  | [], s => .next s
  | b :: bs, s => andThen (shiftIn b s) (shiftInAll bs)

/-- Every time of a state, in the registers and at the ports, moved on by `k` counter ticks. -/
def State.delay (k : Nat) (s : State) : State :=
  { s with
    regs := { s.regs with
      bitStartTime := (s.regs.bitStartTime + k) % 2 ^ s.cfg.timeWidth
      lineSetTime := (s.regs.lineSetTime + k) % 2 ^ s.cfg.timeWidth }
    op := { s.op with now := (s.op.now + k) % 2 ^ s.cfg.timeWidth }
    arm := { s.arm with now := (s.arm.now + k) % 2 ^ s.cfg.timeWidth } }

/-- The same outcome with its next state moved on by `k` ticks. -/
def delayResult (k : Nat) (r : Result) : Result := andThen r fun s => .next (s.delay k)

/-- A command word that encodes no operation: opcode 00, or a reserved bit set (R52, R53, R54, R55). -/
def reservedWord (cw : BitVec 32) : Bool :=
  decide (cw &&& 0x3 = 0x0) ||
    (decide (cw &&& 0x3 = 0x1) && decide (cw &&& 0x0000FF80 ≠ 0)) ||
    (decide (cw &&& 0x3 = 0x2) && decide (cw &&& 0xFFFFF800 ≠ 0)) ||
    (decide (cw &&& 0x3 = 0x3) && decide (cw &&& 0xFFFFFFF8 ≠ 0))

/-! ### The invariant -/

/-- Where the receive counter stands in each receive state (R30, R81, R83, R84, R91). -/
def rxPosition (c : Config) (r : Regs) : Phase → Prop
  | .rcvStartbit1 | .rcvStartbit2 => r.rxBitCount = 0
  | .rcvDatabit1 => r.rxBitCount < 8 * c.cap
  | .rcvDatabit2 => 1 ≤ r.rxBitCount
  | .rcvEom1 => 8 ≤ r.rxBitCount ∧ r.rxBitCount % 8 = 0
  | .rcvEom2 | .rcvAckSent | .rcvAck1 =>
    8 ≤ r.rxBitCount ∧ r.rxBitCount % 8 = 0 ∧ (r.rxBitCount = 8 * c.cap → r.rxEom = true ∨ r.rxNak = true)
  | .rcvAck2 => 8 ≤ r.rxBitCount ∧ r.rxBitCount % 8 = 0 ∧ r.rxBitCount < 8 * c.cap
  | .idle | .rcvLineerror | .xmitWait | .xmitStartbit1 | .xmitStartbit2 | .xmitDatabit1 | .xmitDatabit2 | .xmitEom1
  | .xmitEom2 | .xmitAck1 | .xmitAckTest | .xmitAckWait | .xmitAck2 => True

/-- Where the transmit index stands in each state of an attempt: R33, for the states in which an attempt runs. [log 19] -/
def txPosition (r : Regs) : Phase → Prop
  | .xmitWait => 0 < r.txByteCount
  | .xmitStartbit1 | .xmitStartbit2 => 0 < r.txByteCount ∧ r.txBitIndex = 0
  | .xmitDatabit1 | .xmitDatabit2 => r.txBitIndex < 8 * r.txByteCount
  | .xmitEom1 | .xmitEom2 | .xmitAck1 | .xmitAckTest =>
    8 ≤ r.txBitIndex ∧ r.txBitIndex % 8 = 0 ∧ r.txBitIndex ≤ 8 * r.txByteCount
  | .xmitAckWait | .xmitAck2 => 8 ≤ r.txBitIndex ∧ r.txBitIndex % 8 = 0 ∧ r.txBitIndex < 8 * r.txByteCount
  | .idle | .rcvStartbit1 | .rcvStartbit2 | .rcvDatabit1 | .rcvDatabit2 | .rcvEom1 | .rcvEom2 | .rcvAckSent | .rcvAck1
  | .rcvAck2 | .rcvLineerror => True

/-- The states in which this device holds the line low: its own low phases (R85, R97 to R104). -/
def holdsLow : Phase → Bool
  | .rcvAckSent | .xmitStartbit1 | .xmitDatabit1 | .xmitEom1 | .xmitAck1 => true
  | .idle | .rcvStartbit1 | .rcvStartbit2 | .rcvDatabit1 | .rcvDatabit2 | .rcvEom1 | .rcvEom2 | .rcvAck1 | .rcvAck2
  | .rcvLineerror | .xmitWait | .xmitStartbit2 | .xmitDatabit2 | .xmitEom2 | .xmitAckTest | .xmitAckWait | .xmitAck2 => false

/-- The transmit states (R13). -/
def isTransmit : Phase → Bool
  | .xmitWait | .xmitStartbit1 | .xmitStartbit2 | .xmitDatabit1 | .xmitDatabit2 | .xmitEom1 | .xmitEom2 | .xmitAck1
  | .xmitAckTest | .xmitAckWait | .xmitAck2 => true
  | .idle | .rcvStartbit1 | .rcvStartbit2 | .rcvDatabit1 | .rcvDatabit2 | .rcvEom1 | .rcvEom2 | .rcvAckSent | .rcvAck1
  | .rcvAck2 | .rcvLineerror => false

/-- The two states that wait with budget NONE (R68). -/
def waitsForever : Phase → Bool
  | .rcvLineerror | .xmitAckWait => true
  | .idle | .rcvStartbit1 | .rcvStartbit2 | .rcvDatabit1 | .rcvDatabit2 | .rcvEom1 | .rcvEom2 | .rcvAckSent | .rcvAck1
  | .rcvAck2 | .xmitWait | .xmitStartbit1 | .xmitStartbit2 | .xmitDatabit1 | .xmitDatabit2 | .xmitEom1 | .xmitEom2
  | .xmitAck1 | .xmitAckTest | .xmitAck2 => false

/-- The two buffers are in canonical form and list no index of CAP or more, and the receive buffer is zero past the frame's bits
(R37, R38, R77). -/
structure BuffersOk (c : Config) (r : Regs) : Prop where
  rxWf   : r.rxBuf.wf = true
  txWf   : r.txBuf.wf = true
  rxTail : ∀ i, r.rxBitCount ≤ 8 * i → r.rxBuf.read i = 0
  rxIn   : ∀ i, c.cap ≤ i → r.rxBuf.read i = 0
  txIn   : ∀ i, c.cap ≤ i → r.txBuf.read i = 0

/-- The counters keep the ranges of the register table (R30, R32, R34, R22). The bounds are the parameters' own; with CAP above 16,
MAX_RETRIES above 7 or a list of more than eight entries, none of which R8 bounds, they pass the table's widths. [log 5] -/
structure CountersOk (c : Config) (r : Regs) : Prop where
  rxBits  : r.rxBitCount ≤ 8 * c.cap
  txBytes : r.txByteCount ≤ c.cap
  retries : r.retry ≤ c.maxRetries
  cand    : r.candIdx = 0 ∨ r.candIdx < (c.candidatesOf r.devType).length

/-- The time registers fit the counter (R25, R26, R27), `IDLE` has budget 0 (R27), and exactly two states have none (R68). -/
structure TimersOk (c : Config) (r : Regs) (p : Phase) : Prop where
  bitStart : r.bitStartTime < 2 ^ c.timeWidth
  lineSet  : r.lineSetTime < 2 ^ c.timeWidth
  budget   : ∀ d, r.waitTime = some d → d < 2 ^ c.timeWidth
  idle     : p = .idle → r.waitTime = some 0
  forever  : r.waitTime = none ↔ waitsForever p = true

/-- The allocator's invariants (R21, R22, R32, R113, R115, R116): while it probes, the staged frame is the probe of the current
candidate, which is not the unregistered address; a claimed address is the list's current entry; nothing is pending without
an address or a probe; and a pending frame of a claimed block carries its address as the source. -/
structure AllocatorOk (c : Config) (r : Regs) : Prop where
  probing   : r.allocating = true → r.la = none ∧ r.monitor = false ∧ r.txByteCount = 1 ∧
                ∃ a, (c.candidatesOf r.devType)[r.candIdx]? = some a ∧ a ≠ c.laUnregistered ∧ r.txBuf.read 0 = header a a
  claimed   : ∀ a, r.la = some a → (c.candidatesOf r.devType)[r.candIdx]? = some a
  unclaimed : r.la = none → r.allocating = false → r.txByteCount = 0
  source    : ∀ a, r.la = some a → 0 < r.txByteCount → sourceOf (r.txBuf.read 0) = a

/-- The line and the modes (R20, R29, R31): the block holds the line low exactly in its own low phases; a monitor never
transmits, drives or has an address; a frame is not both addressed to the device and a broadcast. -/
structure LineOk (r : Regs) (p : Phase) : Prop where
  drive   : r.lineOut = .low ↔ holdsLow p = true
  monitor : r.monitor = true → r.la = none ∧ r.txByteCount = 0 ∧ holdsLow p = false ∧ isTransmit p = false
  follows : ¬(r.rxFollower = true ∧ r.rxBroadcast = true)

/-- The invariant of the registers in protocol state `p`. -/
structure Regs.InvAt (c : Config) (r : Regs) (p : Phase) : Prop where
  state     : r.st = p.code
  inert     : r.initialized = false → r = Regs.reset
  buffers   : BuffersOk c r
  counters  : CountersOk c r
  timers    : TimersOk c r p
  allocator : AllocatorOk c r
  line      : LineOk r p
  rx        : rxPosition c r p
  tx        : txPosition r p

/-- The invariant of the machine: legal parameters, and registers a run can reach. -/
def State.Inv (s : State) : Prop := s.cfg.ok = true ∧ ∃ p, s.regs.InvAt s.cfg p

/-! ### Reachable states -/

/-- The states that runs of a block with legal parameters reach: from reset, whatever operations the host issues. -/
inductive Reachable : State → Prop
  | start (cfg : Config) (h : cfg.ok = true) : Reachable (State.resetWith cfg)
  | offered (s : State) (op : HostOp) (h : Reachable s) : Reachable (s.offer op)
  | stepped (s t : State) (h : Reachable s) (hs : step s = .next t) : Reachable t

/-! ### The host's duties -/

/-- R141: consecutive RUN times are at most RUN_CADENCE_MAX apart. A host duty, which the block does not check. -/
def keepsCadence (c : Config) : List Nat → Prop
  | t :: u :: rest => timeDiff c u t ≤ c.runCadenceMax ∧ keepsCadence c (u :: rest)
  | [_] => True
  | [] => True

end Sys2Proof.Machine
end

