-- ==== Sys2Proof/Certificates/Slice0/Obligations.lean ====
section
/-! DEFINITION. The statements for the provers. `s.after r es cs` is `s` with the registers `r`, the events `es` and the trace causes `cs`
appended, and nothing else changed (Safety.lean); where a statement names a next state so, that is its whole frame. Every
legal parameter record has `0 < cap`, since CAP is MAX_PAYLOAD + 1 (R7, `Config.okPayload`). -/

open Sys2Proof Sys2Proof.Machine

/-! ### Reset, decoding and the step -/

/-- R137: the register values of a block just created, whatever its parameters. `la` is given as the spec writes it, -1. -/
def Obligations.ResetRegisterValues : Prop :=
  ∀ c : Config, let r := (State.resetWith c).regs
    r.initialized = false ∧ r.physAddr = 0x0000 ∧ r.devType = 0 ∧ r.promiscuous = false ∧ r.monitor = false ∧
    r.laSigned = -1 ∧ r.allocating = false ∧ r.candIdx = 0 ∧ r.st = Phase.code .idle ∧ r.waitTime = some 0 ∧
    r.bitStartTime = 0 ∧ r.lineSetTime = 0 ∧ r.lastLineState = .high ∧ r.lineOut = .high ∧
    (∀ i < c.cap, memRead c r.rxBuf i = some 0x00 ∧ memRead c r.txBuf i = some 0x00) ∧
    r.rxBitCount = 0 ∧ r.rxEom = false ∧ r.rxNak = false ∧ r.rxFollower = false ∧ r.rxBroadcast = false ∧
    r.txByteCount = 0 ∧ r.txBitIndex = 0 ∧ r.retry = 0 ∧ r.lastInitiator = false

/-- The invariant of Safety.lean holds of every block just created with legal parameters, and the default parameters are legal
(R8, R137). The collection of clauses in the invariant is the model's; the ones for an attempt's index follow log 19. -/
def Obligations.ResetSatisfiesInvariant : Prop :=
  (∀ c : Config, c.ok = true → (State.resetWith c).Inv) ∧ State.reset.Inv

/-- R51, R55, R126: a step takes the next queued operation off the queue, puts its operands on the ports, gives it fresh
outputs, and runs exactly the instruction its command word decodes to. With nothing queued the step changes nothing (R136).
The queue is the model's way to present the host's operations (log 10). -/
def Obligations.StepRunsDecodedOperation : Prop :=
  (∀ (s : State) (op : HostOp) (rest : List HostOp) (i : Instr),
    s.inbox = op :: rest → s.cfg.ok = true → op.overlap = false → decodeCommand op.cw = .accept i →
      step s = exec i { s with inbox := rest, op := { now := op.now, payload := op.payload },
                               out := { ok := none, events := [], trace := [] } }) ∧
  (∀ s : State, s.inbox = [] → s.cfg.ok = true → step s = .next s)

/-- R52, R53, R54, R56: the spec's worked words, and the state codes at the ends of the two paths, decode to what they
stand for. -/
def Obligations.WorkedWordsDecode : Prop :=
  decodeTableWord 32 0x20000015 = some (.init 0x2000 5 false false) ∧
  decodeTableWord 32 0x20000035 = some (.init 0x2000 5 true false) ∧
  decodeTableWord 32 0x10000051 = some (.init 0x1000 4 false true) ∧
  decodeTableWord 32 0x00000042 = some (.xmit 0 1) ∧
  decodeTableWord 32 0x00000412 = some (.xmit 4 16) ∧
  decodeTableWord 32 0x00000007 = some (.run .high) ∧
  decodeTableWord 32 0x00000003 = some (.run .low) ∧
  decodeTableWord 8 0 = some .armIdle ∧ decodeTableWord 8 7 = some .armRcvAckSent ∧
  decodeTableWord 8 10 = some .armRcvLineerror ∧ decodeTableWord 8 11 = some .armXmitWait ∧
  decodeTableWord 8 21 = some .armXmitAck2 ∧ decodeTableWord 8 22 = none

/-- R51 to R56: decoding the encoding of any instruction gives it back, every field at every value. -/
def Obligations.DecodeEncodeAgree : Prop := ∀ i : Instr, decode (encode i) = .accept i

/-- R51 to R57, R63: every word that decodes has that one meaning, so the encoding of the decoded instruction is the word. -/
def Obligations.EncodeDecodeAgree : Prop := ∀ (w : MachineWord) (i : Instr), decode w = .accept i → encode i = w

/-- R55: a word with opcode 00 or a reserved bit set, and no other, encodes no operation; the model records a refusal and
changes no state. -/
def Obligations.ReservedWordsAreRefused : Prop :=
  (∀ cw : BitVec 32, reservedWord cw = true ↔ ∀ i : Instr, decodeCommand cw ≠ .accept i) ∧
  (∀ (x : Session) (op : HostOp), x.machine.cfg.ok = true → op.overlap = false → reservedWord op.cw = true →
    x.perform op = some { machine := x.machine, log := x.log ++ [.refused .reservedCmd] })

/-- R57: exactly the codes 22 to 31 name no state; no reachable state holds one; a RUN handed one is refused. -/
def Obligations.ReservedStateCodes : Prop :=
  (∀ c : StateCode, decodePhase c = none ↔ 22 ≤ c.toNat) ∧
  (∀ s : State, Reachable s → s.regs.st.toNat < 22) ∧
  (∀ (s : State) (l : Level), s.regs.initialized = true → 22 ≤ s.regs.st.toNat → exec (.run l) s = .refused .reservedState)

/-- R126, R127: bad parameters, an overlapping operation, RUN before INIT and a second INIT are refused whatever else holds. The
order among refusals that apply together is the model's (log 11). -/
def Obligations.HostLevelRefusals : Prop :=
  (∀ (s : State) (op : HostOp), s.cfg.ok = false → performOp op s = .refused .badParams) ∧
  (∀ (s : State) (op : HostOp), s.cfg.ok = true → op.overlap = true → performOp op s = .refused .overlap) ∧
  (∀ (s : State) (l : Level), s.regs.initialized = false → exec (.run l) s = .refused .runBeforeInit) ∧
  (∀ (s : State) (pa : BitVec 16) (t : BitVec 3) (prom mon : Bool), s.regs.initialized = true →
    exec (.init pa t prom mon) s = .refused .secondInit)

/-! ### The host operations -/

/-- R120, R112, R113: INIT on a block not yet initialised configures it, and stages the probe of the first candidate exactly
when the list is not empty, the address is not the broadcast address and monitor mode is off. It emits nothing and leaves
`st` and the line alone. -/
def Obligations.InitConfiguresAndStartsAllocator : Prop :=
  ∀ (pa : BitVec 16) (t : BitVec 3) (prom mon : Bool) (s : State), s.regs.initialized = false →
    let r := { s.regs with initialized := true, physAddr := pa, devType := t, promiscuous := prom, monitor := mon }
    (∀ (a : LogAddr) (rest : List LogAddr), 0 < s.cfg.cap → s.cfg.candidatesOf t = a :: rest → pa ≠ s.cfg.physBroadcast → mon = false →
      exec (.init pa t prom mon) s = .next (s.after
        { r with allocating := true, candIdx := 0, txBuf := s.regs.txBuf.write 0 (a ++ a), txByteCount := 1, retry := 0 }
        [] [])) ∧
    (s.cfg.candidatesOf t = [] ∨ pa = s.cfg.physBroadcast ∨ mon = true →
      exec (.init pa t prom mon) s = .next (s.after r [] []))

/-- R121, R126: XMIT without an address, in monitor mode, with a frame pending or over MAX_PAYLOAD bytes returns ok = 0 and
changes no register; the trace reports the first condition that applies, in the order 13, 14, 15, 16. -/
def Obligations.XmitRejections : Prop :=
  ∀ (target : LogAddr) (len : BitVec 5) (s : State),
    (s.regs.la = none ∨ s.regs.monitor = true ∨ s.regs.txByteCount ≠ 0 ∨ s.cfg.maxPayload < len.toNat) →
      exec (.xmit target len) s = .next { s with
        out := { s.out with
          ok := some false
          trace := s.out.trace ++ [if s.regs.la = none then .xmitNoLa else if s.regs.monitor then .xmitMonitor
            else if s.regs.txByteCount ≠ 0 then .xmitPending else .xmitTooLong] } }

/-- R121, R42, R60: an accepted XMIT returns ok = 1 and stages the frame: the header `{la, target}` at index 0, the payload
from index 1 on, every other byte of the buffer as before; length `len + 1`, retry counter 0, nothing else changed. The parameters are legal, as R8 asks of
those a model runs. -/
def Obligations.XmitStagesFrame : Prop :=
  ∀ (target a : LogAddr) (len : BitVec 5) (s : State), s.regs.la = some a → s.regs.monitor = false →
    s.regs.txByteCount = 0 → len.toNat ≤ s.cfg.maxPayload → s.cfg.ok = true → s.regs.txBuf.wf = true →
      ∃ m : Memory, exec (.xmit target len) s = .next { s with
          regs := { s.regs with txBuf := m, txByteCount := len.toNat + 1, retry := 0 }
          out := { s.out with ok := some true } } ∧
        m.wf = true ∧ m.read 0 = a ++ target ∧
        (∀ i : Fin payloadWidth, i.val < len.toNat → m.read (1 + i.val) = s.op.payload[i]) ∧
        (∀ j : Nat, len.toNat < j → m.read j = s.regs.txBuf.read j)

/-! ### The RUN step -/

/-- R66: inside the settle window RUN does nothing at all. -/
def Obligations.SettleWindowMasksRun : Prop :=
  ∀ (s : State) (l : Level) (p : Phase), s.regs.initialized = true → s.regs.st = p.code →
    timeDiff s.cfg (s.op.now % 2 ^ s.cfg.timeWidth) s.regs.lineSetTime <
      (match s.regs.lastLineState with | .high => s.cfg.settleRise | .low => s.cfg.settleFall) →
    exec (.run l) s = .next s

/-- R69: with no line change and no elapsed budget RUN changes nothing; and in `IDLE`, with no line change and no frame it
may start, it writes no register and emits nothing (only the values handed to the arm are latched). -/
def Obligations.QuietRunChangesNothing : Prop :=
  (∀ (s : State) (p : Phase), s.regs.initialized = true → s.regs.st = p.code →
    (∀ d, s.regs.waitTime = some d →
      timeDiff s.cfg (s.op.now % 2 ^ s.cfg.timeWidth) s.regs.bitStartTime < d) →
    exec (.run s.regs.lastLineState) s = .next s) ∧
  (∀ s : State, s.regs.initialized = true → s.regs.st = Phase.code .idle →
    (s.regs.lastLineState = .low ∨ s.regs.txByteCount = 0 ∨ s.regs.monitor = true) →
    ∃ a : ArmInputs, exec (.run s.regs.lastLineState) s = .next s ∨
      exec (.run s.regs.lastLineState) s = .next { s with arm := a })

/-- R65, R67, R68, R70, R71, R72, R73: past the settle window, a RUN with an elapsed budget or a changed line runs exactly one
arm. Without a change it is the arm of `st`. A change is recorded first, and the arm of `st` sees it; in the nine
arbitration-checked states it aborts the attempt instead, releasing a low output, leaving the pending frame, and running
the `IDLE` arm with its budget elapsed. -/
def Obligations.RunDispatchesOneArm : Prop :=
  ∀ (s : State) (l : Level) (p : Phase), s.regs.initialized = true → s.regs.st = p.code →
    let now := s.op.now % 2 ^ s.cfg.timeWidth
    (match s.regs.lastLineState with | .high => s.cfg.settleRise | .low => s.cfg.settleFall) ≤
      timeDiff s.cfg now s.regs.lineSetTime →
    let elapsed := match s.regs.waitTime with
      | none => false
      | some d => decide (d ≤ timeDiff s.cfg now s.regs.bitStartTime)
    let checked := decide (p ∈ [Phase.xmitWait, .xmitStartbit1, .xmitStartbit2, .xmitDatabit1, .xmitDatabit2, .xmitEom1,
      .xmitEom2, .xmitAck1, .xmitAck2])
    (l = s.regs.lastLineState → elapsed = true →
      exec (.run l) s = exec p.arm { s with arm := { now := now, line := l, changed := false, elapsed := true } }) ∧
    (l ≠ s.regs.lastLineState → checked = false →
      exec (.run l) s = exec p.arm { s with
        regs := { s.regs with lastLineState := l, lineSetTime := now }
        arm := { now := now, line := l, changed := true, elapsed := elapsed } }) ∧
    (l ≠ s.regs.lastLineState → checked = true →
      exec (.run l) s = exec .armIdle { s with
        regs := { s.regs with
          lastLineState := l, lineSetTime := now, st := Phase.code .idle, waitTime := some 0, lineOut := .high }
        arm := { now := now, line := l, changed := true, elapsed := true }
        out := { s.out with
          events := s.out.events ++ (if s.regs.lineOut = .low then [.setLine .high] else [])
          trace := s.out.trace ++ [.txArbitration] } })

/-- R71, R72, R77: a fall seen in an arbitration-checked state past the settle window ends the attempt and starts a receive in
the same RUN. The frame stays pending with its retry count, and no TX_COMPLETE is emitted. -/
def Obligations.ArbitrationLossStartsReceive : Prop :=
  ∀ (s : State) (p : Phase), s.regs.initialized = true → s.regs.st = p.code → isTransmit p = true →
    p ≠ .xmitAckTest → p ≠ .xmitAckWait → s.regs.lastLineState = .high → s.regs.lineOut = .high →
    let now := s.op.now % 2 ^ s.cfg.timeWidth
    s.cfg.settleRise ≤ timeDiff s.cfg now s.regs.lineSetTime →
    ∃ t : State, exec (.run .low) s = .next t ∧
      t.regs = { s.regs with
        lastLineState := .low, lineSetTime := now, bitStartTime := now, st := Phase.code .rcvStartbit1
        waitTime := some s.cfg.startLowTimeout, rxBuf := [], rxBitCount := 0, rxEom := false, rxNak := false
        rxFollower := false, rxBroadcast := false, lastInitiator := false } ∧
      t.out = { s.out with trace := s.out.trace ++ [.txArbitration] } ∧
      t.cfg = s.cfg ∧ t.inbox = s.inbox ∧ t.op = s.op

/-- R10: the difference of two times below 2^TIME_WIDTH is their unsigned difference, and a time reached by advancing `d`
ticks from another, wrapped, differs from it by `d`. -/
def Obligations.TimeDifferenceWraps : Prop :=
  ∀ (c : Config) (a b : Nat), a < 2 ^ c.timeWidth → b < 2 ^ c.timeWidth →
    timeDiff c a b = (if b ≤ a then a - b else a + 2 ^ c.timeWidth - b) ∧
    ∀ d < 2 ^ c.timeWidth, timeDiff c ((b + d) % 2 ^ c.timeWidth) b = d

/-- R10, R75, R132: only differences of times count. Moving every time of a state on by the same number of ticks, wrapping at
2^TIME_WIDTH, moves the outcome of RUN on by as many and changes nothing else. -/
def Obligations.RunIsTimeTranslationInvariant : Prop :=
  ∀ (k : Nat) (l : Level) (s : State), exec (.run l) (s.delay k) = delayResult k (exec (.run l) s)

/-- R68: the budget test, with the spec's example across a wrap. -/
def Obligations.BudgetTest : Prop :=
  (∀ (s : State) (now : Nat),
    elapsedAt s now = true ↔ ∃ d, s.regs.waitTime = some d ∧ d ≤ timeDiff s.cfg now s.regs.bitStartTime) ∧
  (∀ s : State, s.cfg.timeWidth = 32 → s.regs.bitStartTime = 0xFFFFFF00 → s.regs.waitTime = some 600 →
    elapsedAt s 0x158 = true ∧ elapsedAt s 0x157 = false)

/-! ### IDLE and the receive arms -/

/-- R80, R62: the classifier's two windows, inclusive at both ends, and the reading of everything else as an erroneous 1. -/
def Obligations.ClassifierWindows : Prop :=
  (∀ (c : Config) (d : Nat), c.ok = true →
    (c.bitLow1 ≤ d + c.lowMargin ∧ d ≤ c.bitLow1 + c.lowMargin → classify c d = (true, false)) ∧
    (c.bitLow0 ≤ d + c.lowMargin ∧ d ≤ c.bitLow0 + c.lowMargin → classify c d = (false, false)) ∧
    (¬(c.bitLow1 ≤ d + c.lowMargin ∧ d ≤ c.bitLow1 + c.lowMargin) →
      ¬(c.bitLow0 ≤ d + c.lowMargin ∧ d ≤ c.bitLow0 + c.lowMargin) → classify c d = (true, true))) ∧
  (∀ d : Nat, classify Config.default d =
    (if 300 ≤ d ∧ d ≤ 900 then (true, false) else if 1200 ≤ d ∧ d ≤ 1800 then (false, false) else (true, true)))

/-- R141 (a): with RUNs at most LOW_MARGIN apart, a nominal low phase of either bit classifies correctly, wherever the counter
wraps: the fall is seen less than the gap `g` after it happened at `f`, and so is the rise. -/
def Obligations.NominalBitsClassifyAtCadence : Prop :=
  ∀ (c : Config) (g f late₁ late₂ : Nat) (bit : Bool), c.ok = true → g ≤ c.lowMargin → late₁ < g → late₂ < g →
    g ≤ c.bitLow1 → (∀ d ∈ [c.bitLow1 + g, c.bitLow0 + g], d < 2 ^ c.timeWidth) →
    classify c (timeDiff c ((f + (if bit then c.bitLow1 else c.bitLow0) + late₂) % 2 ^ c.timeWidth)
      ((f + late₁) % 2 ^ c.timeWidth)) = (bit, false)

/-- R76, R77: the IDLE arm. A fall starts a frame; otherwise a pending frame with the line high starts the signal free time;
otherwise nothing is written. -/
def Obligations.IdleArm : Prop :=
  ∀ s : State,
    (s.arm.changed = true → s.arm.line = .low → exec .armIdle s = .next (s.after
      { s.regs with
        rxBuf := [], rxBitCount := 0, rxEom := false, rxNak := false, rxFollower := false, rxBroadcast := false
        lastInitiator := false, bitStartTime := s.arm.now, st := Phase.code .rcvStartbit1
        waitTime := some s.cfg.startLowTimeout } [] [])) ∧
    (s.arm.line = .high → 0 < s.regs.txByteCount → s.regs.monitor = false → exec .armIdle s = .next (s.after
      { s.regs with
        bitStartTime := s.arm.now, st := Phase.code .xmitWait
        waitTime := some ((if 0 < s.regs.retry then s.cfg.freeRetry
          else if s.regs.lastInitiator = true then s.cfg.freePrev else s.cfg.freeNew) * s.cfg.bitTime) } [] [])) ∧
    (¬(s.arm.changed = true ∧ s.arm.line = .low) →
      ¬(s.arm.line = .high ∧ 0 < s.regs.txByteCount ∧ s.regs.monitor = false) → exec .armIdle s = .next s)

/-- R78: the start bit's low phase. -/
def Obligations.RcvStartbit1Arm : Prop :=
  ∀ s : State, let d := timeDiff s.cfg s.arm.now s.regs.bitStartTime
    let inside := s.cfg.startLow ≤ d + s.cfg.lowMargin ∧ d ≤ s.cfg.startLow + s.cfg.lowMargin
    (s.arm.changed = true → inside → exec .armRcvStartbit1 s = .next (s.after
      { s.regs with st := Phase.code .rcvStartbit2, waitTime := some s.cfg.startTotalTimeout } [] [])) ∧
    (s.arm.changed = true → ¬inside → exec .armRcvStartbit1 s = .next (s.after
      { s.regs with st := Phase.code .idle, waitTime := some 0 } [] [.rxStartLowRange])) ∧
    (s.arm.changed = false → s.arm.elapsed = true → exec .armRcvStartbit1 s = .next (s.after
      { s.regs with st := Phase.code .idle, waitTime := some 0 } [] [.rxStartLowTimeout])) ∧
    (s.arm.changed = false → s.arm.elapsed = false → exec .armRcvStartbit1 s = .next s)

/-- R79: the start bit's high phase. -/
def Obligations.RcvStartbit2Arm : Prop :=
  ∀ s : State, let d := timeDiff s.cfg s.arm.now s.regs.bitStartTime
    let inside := s.cfg.startTotal ≤ d + s.cfg.periodMargin ∧ d ≤ s.cfg.startTotal + s.cfg.periodMargin
    (s.arm.changed = true → inside → exec .armRcvStartbit2 s = .next (s.after
      { s.regs with bitStartTime := s.arm.now, st := Phase.code .rcvDatabit1, waitTime := some s.cfg.lineErrorLow } [] [])) ∧
    (s.arm.changed = true → ¬inside → exec .armRcvStartbit2 s = .next (s.after
      { s.regs with st := Phase.code .idle, waitTime := some 0 } [] [.rxStartTotalRange])) ∧
    (s.arm.changed = false → s.arm.elapsed = true → exec .armRcvStartbit2 s = .next (s.after
      { s.regs with st := Phase.code .idle, waitTime := some 0 } [] [.rxStartTotalTimeout])) ∧
    (s.arm.changed = false → s.arm.elapsed = false → exec .armRcvStartbit2 s = .next s)

/-- R82, R81: a data bit's low phase. The bit is shifted into byte `rxBitCount / 8` from the right, every other byte stays, and
a width out of tolerance forces the frame's negative acknowledgement without ending it. -/
def Obligations.RcvDatabit1Arm : Prop :=
  ∀ s : State,
    (s.arm.changed = true → s.regs.rxBitCount < 8 * s.cfg.cap → s.regs.rxBuf.wf = true →
      let c := classify s.cfg (timeDiff s.cfg s.arm.now s.regs.bitStartTime)
      let i := s.regs.rxBitCount / 8
      ∃ m : Memory, exec .armRcvDatabit1 s = .next (s.after
          { s.regs with
            rxBuf := m, rxBitCount := s.regs.rxBitCount + 1, rxNak := s.regs.rxNak || c.2
            st := Phase.code .rcvDatabit2, waitTime := some s.cfg.rxHighTimeout }
          [] (if c.2 then [.rxBitTolerance] else [])) ∧
        m.wf = true ∧ (m.read i).toNat = (2 * (s.regs.rxBuf.read i).toNat + (if c.1 then 1 else 0)) % 256 ∧
        ∀ j, j ≠ i → m.read j = s.regs.rxBuf.read j) ∧
    (s.arm.changed = false → s.arm.elapsed = true → exec .armRcvDatabit1 s = .next (s.after
      { s.regs with st := Phase.code .rcvLineerror, waitTime := none } [] [.rxLineError])) ∧
    (s.arm.changed = false → s.arm.elapsed = false → exec .armRcvDatabit1 s = .next s)

/-- R83: a data bit's high phase; the bit after a whole byte is its EOM bit. -/
def Obligations.RcvDatabit2Arm : Prop :=
  ∀ s : State,
    (s.arm.changed = true → s.regs.rxBitCount % 8 = 0 → exec .armRcvDatabit2 s = .next (s.after
      { s.regs with bitStartTime := s.arm.now, st := Phase.code .rcvEom1, waitTime := some s.cfg.lineErrorLow } [] [])) ∧
    (s.arm.changed = true → s.regs.rxBitCount % 8 ≠ 0 → exec .armRcvDatabit2 s = .next (s.after
      { s.regs with bitStartTime := s.arm.now, st := Phase.code .rcvDatabit1, waitTime := some s.cfg.lineErrorLow } [] [])) ∧
    (s.arm.changed = false → s.arm.elapsed = true → exec .armRcvDatabit2 s = .next (s.after
      { s.regs with st := Phase.code .idle, waitTime := some 0 } [] [.rxHighTimeout])) ∧
    (s.arm.changed = false → s.arm.elapsed = false → exec .armRcvDatabit2 s = .next s)

/-- R84: the EOM bit. Its value, the header's destination tests, and the forced negative acknowledgement of a width out of
tolerance or of the last block that fits the buffer, the sixteenth, with EOM = 0. -/
def Obligations.RcvEom1Arm : Prop :=
  ∀ s : State, let c := classify s.cfg (timeDiff s.cfg s.arm.now s.regs.bitStartTime)
    let dst : LogAddr := (s.regs.rxBuf.read 0).extractLsb' 0 4
    let overflow := decide (s.regs.rxBitCount = 8 * s.cfg.cap) && !c.1
    (s.arm.changed = true → 0 < s.cfg.cap → exec .armRcvEom1 s = .next (s.after
      { s.regs with
        rxEom := c.1, rxNak := s.regs.rxNak || c.2 || overflow
        rxBroadcast := decide (dst = s.cfg.laBroadcast)
        rxFollower := decide (dst ≠ s.cfg.laBroadcast ∧ s.regs.la = some dst)
        st := Phase.code .rcvEom2, waitTime := some s.cfg.rxHighTimeout }
      [] ((if c.2 then [.rxBitTolerance] else []) ++ (if overflow then [.rxOverflow] else [])))) ∧
    (s.arm.changed = false → s.arm.elapsed = true → exec .armRcvEom1 s = .next (s.after
      { s.regs with st := Phase.code .rcvLineerror, waitTime := none } [] [.rxLineError])) ∧
    (s.arm.changed = false → s.arm.elapsed = false → exec .armRcvEom1 s = .next s)

/-- R85, R86, R93: the fall that starts the ACK bit. The device drives it low as a follower without error, or to reject a
broadcast, and never as a monitor. -/
def Obligations.RcvEom2Arm : Prop :=
  ∀ s : State,
    let drives := s.regs.monitor = false ∧
      ((s.regs.rxFollower = true ∧ s.regs.rxNak = false) ∨ (s.regs.rxBroadcast = true ∧ s.regs.rxNak = true))
    (s.arm.changed = true → drives → exec .armRcvEom2 s = .next (s.after
      { s.regs with
        bitStartTime := s.arm.now, lineOut := .low, lastLineState := .low, lineSetTime := s.arm.now
        st := Phase.code .rcvAckSent, waitTime := some s.cfg.bitLow0 } [.setLine .low] [])) ∧
    (s.arm.changed = true → ¬drives → exec .armRcvEom2 s = .next (s.after
      { s.regs with bitStartTime := s.arm.now, st := Phase.code .rcvAck1, waitTime := some s.cfg.lineErrorLow } [] [])) ∧
    (s.arm.changed = false → s.arm.elapsed = true → exec .armRcvEom2 s = .next (s.after
      { s.regs with st := Phase.code .idle, waitTime := some 0 } [] [.rxHighTimeout])) ∧
    (s.arm.changed = false → s.arm.elapsed = false → exec .armRcvEom2 s = .next s)

/-- R87, R91: the end of this device's hold of the ACK bit. The line is released; a frame that ends here is delivered to a
follower, a broadcast receiver or a promiscuous device, with the acknowledgement this device gave. -/
def Obligations.RcvAckSentArm : Prop :=
  ∀ s : State, s.regs.rxBitCount ≤ 8 * s.cfg.cap →
    let n := s.regs.rxBitCount / 8
    let ends := s.regs.rxEom = true ∨ s.regs.rxNak = true
    let delivered := s.regs.rxFollower = true ∨ s.regs.rxBroadcast = true ∨ s.regs.promiscuous = true
    let ack := decide (s.regs.monitor = false ∧ s.regs.rxNak = false ∧ (s.regs.rxFollower = true ∨ s.regs.rxBroadcast = true))
    let released := { s.regs with lineOut := .high, lastLineState := .high, lineSetTime := s.arm.now }
    (s.arm.elapsed = true → ¬ends → exec .armRcvAckSent s = .next (s.after
      { released with st := Phase.code .rcvAck2, waitTime := some s.cfg.rxHighTimeout } [.setLine .high] [])) ∧
    (s.arm.elapsed = true → ends → delivered → exec .armRcvAckSent s = .next (s.after
      { released with st := Phase.code .idle, waitTime := some 0 }
      [.setLine .high, .rxComplete (bytesOf s.regs.rxBuf n) n ack] [])) ∧
    (s.arm.elapsed = true → ends → ¬delivered → exec .armRcvAckSent s = .next (s.after
      { released with st := Phase.code .idle, waitTime := some 0 } [.setLine .high] [])) ∧
    (s.arm.elapsed = false → exec .armRcvAckSent s = .next s)

/-- R88, R91: an ACK bit that this device observes. The frame ends at EOM, at a forced negative acknowledgement, or at a
negative one seen on the line, whose sense is inverted for broadcast. -/
def Obligations.RcvAck1Arm : Prop :=
  ∀ s : State, s.regs.rxBitCount ≤ 8 * s.cfg.cap →
    let c := classify s.cfg (timeDiff s.cfg s.arm.now s.regs.bitStartTime)
    let nak := s.regs.rxNak || c.2
    let n := s.regs.rxBitCount / 8
    let ends := s.regs.rxEom = true ∨ nak = true ∨ (if s.regs.rxBroadcast then c.1 = false else c.1 = true)
    let delivered := s.regs.rxFollower = true ∨ s.regs.rxBroadcast = true ∨ s.regs.promiscuous = true
    let ack := decide (s.regs.monitor = false ∧ nak = false ∧ (s.regs.rxFollower = true ∨ s.regs.rxBroadcast = true))
    let met : List Cause := if c.2 then [.rxBitTolerance] else []
    (s.arm.changed = true → ¬ends → exec .armRcvAck1 s = .next (s.after
      { s.regs with rxNak := nak, st := Phase.code .rcvAck2, waitTime := some s.cfg.rxHighTimeout } [] met)) ∧
    (s.arm.changed = true → ends → delivered → exec .armRcvAck1 s = .next (s.after
      { s.regs with rxNak := nak, st := Phase.code .idle, waitTime := some 0 }
      [.rxComplete (bytesOf s.regs.rxBuf n) n ack] met)) ∧
    (s.arm.changed = true → ends → ¬delivered → exec .armRcvAck1 s = .next (s.after
      { s.regs with rxNak := nak, st := Phase.code .idle, waitTime := some 0 } [] met)) ∧
    (s.arm.changed = false → s.arm.elapsed = true → exec .armRcvAck1 s = .next (s.after
      { s.regs with st := Phase.code .rcvLineerror, waitTime := none } [] [.rxLineError])) ∧
    (s.arm.changed = false → s.arm.elapsed = false → exec .armRcvAck1 s = .next s)

/-- R89: the ACK bit's high phase when the frame goes on. -/
def Obligations.RcvAck2Arm : Prop :=
  ∀ s : State,
    (s.arm.changed = true → exec .armRcvAck2 s = .next (s.after
      { s.regs with bitStartTime := s.arm.now, st := Phase.code .rcvDatabit1, waitTime := some s.cfg.lineErrorLow } [] [])) ∧
    (s.arm.changed = false → s.arm.elapsed = true → exec .armRcvAck2 s = .next (s.after
      { s.regs with st := Phase.code .idle, waitTime := some 0 } [] [.rxHighTimeout])) ∧
    (s.arm.changed = false → s.arm.elapsed = false → exec .armRcvAck2 s = .next s)

/-- R90, R106: the two arms that wait for the line to rise, and write nothing until it does. -/
def Obligations.RiseWaitingArms : Prop :=
  ∀ s : State,
    (s.arm.changed = true → s.arm.line = .high →
      exec .armRcvLineerror s = .next (s.after { s.regs with st := Phase.code .idle, waitTime := some 0 } [] []) ∧
      exec .armXmitAckWait s = .next (s.after
        { s.regs with st := Phase.code .xmitAck2, waitTime := some s.cfg.bitTime } [] [])) ∧
    (¬(s.arm.changed = true ∧ s.arm.line = .high) →
      exec .armRcvLineerror s = .next s ∧ exec .armXmitAckWait s = .next s)

/-! ### The transmit arms -/

/-- R97, R103: the transmit arms that begin a low phase of fixed length at their deadline: the start bit, and the ACK bit, which
is sent as a 1. -/
def Obligations.FixedBitStartArms : Prop :=
  ∀ s : State,
    (s.arm.elapsed = true →
      exec .armXmitWait s = .next (s.after
        { s.regs with
          txBitIndex := 0, bitStartTime := s.arm.now, lineOut := .low, lastLineState := .low, lineSetTime := s.arm.now
          st := Phase.code .xmitStartbit1, waitTime := some s.cfg.startLow } [.setLine .low] []) ∧
      exec .armXmitEom2 s = .next (s.after
        { s.regs with
          bitStartTime := s.arm.now, lineOut := .low, lastLineState := .low, lineSetTime := s.arm.now
          st := Phase.code .xmitAck1, waitTime := some s.cfg.bitLow1 } [.setLine .low] [])) ∧
    (s.arm.elapsed = false → exec .armXmitWait s = .next s ∧ exec .armXmitEom2 s = .next s)

/-- R98, R100, R102, R104: the four driven low phases end by releasing the line at their deadline, with the deadline of the
phase that follows still measured from the bit's fall. -/
def Obligations.LowPhaseEndArms : Prop :=
  ∀ s : State,
    let released (p : Phase) (budget : Nat) := s.after
      { s.regs with
        lineOut := .high, lastLineState := .high, lineSetTime := s.arm.now, st := p.code, waitTime := some budget }
      [.setLine .high] []
    (s.arm.elapsed = true →
      exec .armXmitStartbit1 s = .next (released .xmitStartbit2 s.cfg.startTotal) ∧
      exec .armXmitDatabit1 s = .next (released .xmitDatabit2 s.cfg.bitTime) ∧
      exec .armXmitEom1 s = .next (released .xmitEom2 s.cfg.bitTime) ∧
      exec .armXmitAck1 s = .next (released .xmitAckTest s.cfg.ackSample)) ∧
    (s.arm.elapsed = false →
      exec .armXmitStartbit1 s = .next s ∧ exec .armXmitDatabit1 s = .next s ∧
      exec .armXmitEom1 s = .next s ∧ exec .armXmitAck1 s = .next s)

/-- R99, R101, R107, R94, R95: the arms that begin a data bit or the EOM bit. Data bit `i` is bit `7 - i mod 8` of byte `i / 8`, a
1 low for BIT_LOW_1 and a 0 for BIT_LOW_0; after a whole byte comes the EOM bit, 1 exactly on the last byte. -/
def Obligations.DataBitStartArms : Prop :=
  ∀ s : State,
    let begun (i : Nat) (p : Phase) (low : Nat) := s.after
      { s.regs with
        txBitIndex := i, bitStartTime := s.arm.now, lineOut := .low, lastLineState := .low, lineSetTime := s.arm.now
        st := p.code, waitTime := some low } [.setLine .low] []
    let bitLow (i : Nat) : Nat := if (s.regs.txBuf.read (i / 8)).getLsbD (7 - i % 8) then s.cfg.bitLow1 else s.cfg.bitLow0
    let i := s.regs.txBitIndex
    (s.arm.elapsed = true → 0 < s.cfg.cap → exec .armXmitStartbit2 s = .next (begun i .xmitDatabit1 (bitLow 0))) ∧
    (s.arm.elapsed = true → i + 1 < 8 * s.cfg.cap → (i + 1) % 8 ≠ 0 →
      exec .armXmitDatabit2 s = .next (begun (i + 1) .xmitDatabit1 (bitLow (i + 1)))) ∧
    (s.arm.elapsed = true → (i + 1) % 8 = 0 →
      exec .armXmitDatabit2 s = .next (begun (i + 1) .xmitEom1
        (if i + 1 = 8 * s.regs.txByteCount then s.cfg.bitLow1 else s.cfg.bitLow0))) ∧
    (s.arm.elapsed = true → i < 8 * s.cfg.cap → exec .armXmitAck2 s = .next (begun i .xmitDatabit1 (bitLow i))) ∧
    (s.arm.elapsed = false →
      exec .armXmitStartbit2 s = .next s ∧ exec .armXmitDatabit2 s = .next s ∧ exec .armXmitAck2 s = .next s)

/-- R105: before the sample point the acknowledge test writes nothing; an acknowledged byte that is not the last leads to the
wait for the follower's release (line low) or to the end of the bit (broadcast, line high). -/
def Obligations.AckTestContinuesFrame : Prop :=
  ∀ s : State,
    let acked := if (s.regs.txBuf.read 0).extractLsb' 0 4 = s.cfg.laBroadcast then s.arm.line = .high else s.arm.line = .low
    (s.arm.elapsed = false → exec .armXmitAckTest s = .next s) ∧
    (s.arm.elapsed = true → 0 < s.cfg.cap → acked → s.regs.txBitIndex ≠ 8 * s.regs.txByteCount → s.arm.line = .low →
      exec .armXmitAckTest s = .next (s.after { s.regs with st := Phase.code .xmitAckWait, waitTime := none } [] [])) ∧
    (s.arm.elapsed = true → 0 < s.cfg.cap → acked → s.regs.txBitIndex ≠ 8 * s.regs.txByteCount → s.arm.line = .high →
      exec .armXmitAckTest s = .next (s.after
        { s.regs with st := Phase.code .xmitAck2, waitTime := some s.cfg.bitTime } [] []))

/-- R105, R108: a failed acknowledge test. A frame of two or more bytes is retried silently while the counter is below
MAX_RETRIES, and then reported and dropped; a one-byte frame is reported and dropped at once (here with the allocator at
rest). -/
def Obligations.AckTestFailureResolves : Prop :=
  ∀ s : State,
    let acked := if (s.regs.txBuf.read 0).extractLsb' 0 4 = s.cfg.laBroadcast then s.arm.line = .high else s.arm.line = .low
    let n := s.regs.txByteCount
    let resolved := { s.regs with lastInitiator := true, st := Phase.code .idle, waitTime := some 0 }
    s.arm.elapsed = true → 0 < s.cfg.cap → ¬acked →
    (n ≠ 1 → s.regs.retry < s.cfg.maxRetries → exec .armXmitAckTest s = .next (s.after
      { resolved with retry := s.regs.retry + 1 } [] [.txNakRetry])) ∧
    (n ≠ 1 → s.cfg.maxRetries ≤ s.regs.retry → n ≤ s.cfg.cap → exec .armXmitAckTest s = .next (s.after
      { resolved with txByteCount := 0 } [.txComplete (bytesOf s.regs.txBuf n) n false] [.txNakFinal])) ∧
    (n = 1 → s.regs.allocating = false → exec .armXmitAckTest s = .next (s.after
      { resolved with txByteCount := 0 } [.txComplete [s.regs.txBuf.read 0] 1 false] [.txProbeNak]))

/-- R105, R109: an acknowledged last byte reports success and drops the frame; the retry counter stays (here with the
allocator at rest). -/
def Obligations.AckTestSuccessResolves : Prop :=
  ∀ s : State,
    let acked := if (s.regs.txBuf.read 0).extractLsb' 0 4 = s.cfg.laBroadcast then s.arm.line = .high else s.arm.line = .low
    let n := s.regs.txByteCount
    s.arm.elapsed = true → 0 < s.cfg.cap → acked → s.regs.txBitIndex = 8 * n → n ≤ s.cfg.cap → s.regs.allocating = false →
      exec .armXmitAckTest s = .next (s.after
        { s.regs with lastInitiator := true, txByteCount := 0, st := Phase.code .idle, waitTime := some 0 }
        [.txComplete (bytesOf s.regs.txBuf n) n true] [])

/-- R108, R109, R114, R115, R116, R113: the acknowledge test of the allocator's probe. Unacknowledged, the candidate is claimed
and READY follows the probe's report; acknowledged, the next candidate's probe is staged, or at the unregistered address
the fallback is taken without a probe. -/
def Obligations.ProbeOutcomeStepsAllocator : Prop :=
  ∀ s : State,
    let acked := if (s.regs.txBuf.read 0).extractLsb' 0 4 = s.cfg.laBroadcast then s.arm.line = .high else s.arm.line = .low
    let list := s.cfg.candidatesOf s.regs.devType
    let report (ok : Bool) := Event.txComplete [s.regs.txBuf.read 0] 1 ok
    let resolved := { s.regs with
      lastInitiator := true, txByteCount := 0, st := Phase.code .idle, waitTime := some 0 }
    s.arm.elapsed = true → 0 < s.cfg.cap → s.regs.allocating = true → s.regs.txByteCount = 1 →
    (∀ a : LogAddr, ¬acked → list[s.regs.candIdx]? = some a →
      exec .armXmitAckTest s = .next (s.after
        { resolved with la := some a, allocating := false } [report false, .ready a] [.txProbeNak])) ∧
    (∀ a : LogAddr, acked → s.regs.txBitIndex = 8 → list[s.regs.candIdx + 1]? = some a → a = s.cfg.laUnregistered →
      exec .armXmitAckTest s = .next (s.after
        { resolved with la := some a, allocating := false, candIdx := s.regs.candIdx + 1 } [report true, .ready a] [])) ∧
    (∀ a : LogAddr, acked → s.regs.txBitIndex = 8 → list[s.regs.candIdx + 1]? = some a → a ≠ s.cfg.laUnregistered →
      exec .armXmitAckTest s = .next (s.after
        { resolved with
          candIdx := s.regs.candIdx + 1, txBuf := s.regs.txBuf.write 0 (a ++ a), txByteCount := 1, retry := 0 }
        [report true] []))

/-! ### Frames -/

/-- Of IDLE and the receive arms: none writes the configuration, the allocator, the pending frame or its bytes, its counters,
or a port; only IDLE clears `lastInitiator`; only the two acknowledge-drive arms touch the line; past the frame start, only
the data bit's arm writes the receive buffer, and there only the byte being assembled. -/
def Obligations.ReceiveArmsFrame : Prop :=
  ∀ (p : Phase) (s t : State), isTransmit p = false → exec p.arm s = .next t →
    t.cfg = s.cfg ∧ t.inbox = s.inbox ∧ t.op = s.op ∧ t.arm = s.arm ∧ t.out.ok = s.out.ok ∧
    t.regs.initialized = s.regs.initialized ∧ t.regs.physAddr = s.regs.physAddr ∧ t.regs.devType = s.regs.devType ∧
    t.regs.promiscuous = s.regs.promiscuous ∧ t.regs.monitor = s.regs.monitor ∧
    t.regs.la = s.regs.la ∧ t.regs.allocating = s.regs.allocating ∧ t.regs.candIdx = s.regs.candIdx ∧
    (∀ j, t.regs.txBuf.read j = s.regs.txBuf.read j) ∧ t.regs.txByteCount = s.regs.txByteCount ∧
    t.regs.txBitIndex = s.regs.txBitIndex ∧ t.regs.retry = s.regs.retry ∧
    (p ≠ .idle → t.regs.lastInitiator = s.regs.lastInitiator) ∧
    (p ≠ .rcvEom2 → p ≠ .rcvAckSent → t.regs.lineOut = s.regs.lineOut ∧ t.regs.lastLineState = s.regs.lastLineState ∧
      t.regs.lineSetTime = s.regs.lineSetTime) ∧
    (p ≠ .idle → p ≠ .rcvDatabit1 → t.regs.rxBitCount = s.regs.rxBitCount ∧
      ∀ j, t.regs.rxBuf.read j = s.regs.rxBuf.read j) ∧
    (p = .rcvDatabit1 → s.regs.rxBuf.wf = true → ∀ j, j ≠ s.regs.rxBitCount / 8 →
      t.regs.rxBuf.read j = s.regs.rxBuf.read j)

/-- Of the transmit arms: none writes the configuration, the receive registers, the receive buffer or a port; only the
acknowledge test writes the allocator, the pending frame's length, the retry counter or `lastInitiator`, and of the transmit
buffer it writes byte 0 alone, and only while allocating; only the wait's end and a data bit's end move the bit index. -/
def Obligations.TransmitArmsFrame : Prop :=
  ∀ (p : Phase) (s t : State), isTransmit p = true → exec p.arm s = .next t →
    t.cfg = s.cfg ∧ t.inbox = s.inbox ∧ t.op = s.op ∧ t.arm = s.arm ∧ t.out.ok = s.out.ok ∧
    t.regs.initialized = s.regs.initialized ∧ t.regs.physAddr = s.regs.physAddr ∧ t.regs.devType = s.regs.devType ∧
    t.regs.promiscuous = s.regs.promiscuous ∧ t.regs.monitor = s.regs.monitor ∧
    (∀ j, t.regs.rxBuf.read j = s.regs.rxBuf.read j) ∧ t.regs.rxBitCount = s.regs.rxBitCount ∧
    t.regs.rxEom = s.regs.rxEom ∧ t.regs.rxNak = s.regs.rxNak ∧ t.regs.rxFollower = s.regs.rxFollower ∧
    t.regs.rxBroadcast = s.regs.rxBroadcast ∧
    (p ≠ .xmitAckTest ∨ s.regs.allocating = false → t.regs.la = s.regs.la ∧ t.regs.allocating = s.regs.allocating ∧
      t.regs.candIdx = s.regs.candIdx ∧ ∀ j, t.regs.txBuf.read j = s.regs.txBuf.read j) ∧
    (s.regs.txBuf.wf = true → ∀ j, j ≠ 0 → t.regs.txBuf.read j = s.regs.txBuf.read j) ∧
    (p ≠ .xmitAckTest → t.regs.txByteCount = s.regs.txByteCount ∧ t.regs.retry = s.regs.retry ∧
      t.regs.lastInitiator = s.regs.lastInitiator) ∧
    (p ≠ .xmitWait → p ≠ .xmitDatabit2 → t.regs.txBitIndex = s.regs.txBitIndex) ∧
    (p = .xmitAckTest ∨ p = .xmitAckWait → t.regs.lineOut = s.regs.lineOut ∧ t.regs.lastLineState = s.regs.lastLineState ∧
      t.regs.lineSetTime = s.regs.lineSetTime)

/-- R39: the buffers. An access at an index below CAP reads the byte last written there, a write leaves every other byte and
the canonical form, and an index of CAP or more faults, on one byte and on a run of bytes alike. -/
def Obligations.BufferAccess : Prop :=
  (∀ (c : Config) (m : Memory) (i : Nat) (v : Byte), m.wf = true → i < c.cap →
    (m.write i v).wf = true ∧ memRead c (m.write i v) i = some v ∧ ∀ j, j ≠ i → (m.write i v).read j = m.read j) ∧
  (∀ (c : Config) (m : Memory) (i : Nat) (k : Byte → Result), c.cap ≤ i → withByte c m i k = .fault (.bufferIndex i)) ∧
  (∀ (c : Config) (m : Memory) (n : Nat) (k : List Byte → Result) (r : Result), c.cap < n →
    withBytes c m n k = .fault (.bufferIndex (n - 1)) ∧ withRoom c n r = .fault (.bufferIndex (n - 1)))

/-- R39: an arm faults only on an index outside a buffer or past the candidate list, in states no run reaches; a data bit
received into a full buffer does. The fault of a candidate index is the model's (log 17). -/
def Obligations.ArmsFaultOnlyOutOfRange : Prop :=
  (∀ (p : Phase) (s : State) (e : Fault), exec p.arm s = .fault e →
    (∃ i, s.cfg.cap ≤ i ∧ e = .bufferIndex i) ∨
    (∃ i, (s.cfg.candidatesOf s.regs.devType)[i]? = none ∧ e = .candidateIndex i)) ∧
  (∀ s : State, s.arm.changed = true → 8 * s.cfg.cap ≤ s.regs.rxBitCount →
    exec .armRcvDatabit1 s = .fault (.bufferIndex (s.regs.rxBitCount / 8)))

/-! ### Whole-machine rules -/

/-- The invariant is kept: every step of any state that meets it, reachable or not, leads to a state that meets it. -/
def Obligations.StepKeepsInvariant : Prop := ∀ s t : State, s.Inv → step s = .next t → t.Inv

/-- R65, R124, R39: from any state that meets the invariant, every host operation that does not overlap and has a legal command
word completes, save RUN before INIT and a second INIT, which are refused; no operation faults. -/
def Obligations.OperationsComplete : Prop :=
  ∀ (s : State) (op : HostOp), s.Inv →
    NoFault (performOp op s) ∧
    (op.overlap = false → reservedWord op.cw = false →
      (op.cw &&& 0x3 = 0x1 → s.regs.initialized = false) → (op.cw &&& 0x3 = 0x3 → s.regs.initialized = true) →
      ∃ t : State, performOp op s = .next t)

/-- R65, R122: RUN completes from every state that meets the invariant of an initialised block, whatever the line level and
the counter. -/
def Obligations.RunCompletes : Prop :=
  ∀ (s : State) (l : Level), s.Inv → s.regs.initialized = true → ∃ t : State, exec (.run l) s = .next t

/-- No state reachable from reset, under any operations of the host, faults at its next step (R39). -/
def Obligations.ReachableNeverFaults : Prop := ∀ s : State, Reachable s → NoFault (step s)

/-- R29, R85, R97 to R104, R71: in every reachable state the block holds the line low exactly in its own low phases; in `IDLE`
and every other state it has released it. -/
def Obligations.LineLowOnlyInOwnLowPhases : Prop :=
  ∀ s : State, Reachable s → ∃ p : Phase, s.regs.st = p.code ∧ (s.linePort = .low ↔
    p ∈ [Phase.rcvAckSent, .xmitStartbit1, .xmitDatabit1, .xmitEom1, .xmitAck1])

/-- R20: a monitor never drives the line: no operation emits a SET_LINE, the output stays HIGH, no address is claimed and no
frame is ever pending. -/
def Obligations.MonitorNeverDrives : Prop :=
  ∀ (s t : State) (op : HostOp), s.Inv → s.regs.monitor = true → performOp op s = .next t →
    lineDrives t.out.events = [] ∧ t.regs.lineOut = .high ∧ t.regs.la = none ∧ t.regs.allocating = false ∧
    t.regs.txByteCount = 0 ∧ t.regs.monitor = true

/-- R16: no step writes the parameters; a step that performs no INIT leaves `initialized` and the four configuration registers as
they are, and once the block is initialised every step does. -/
def Obligations.ConfigurationIsImmutable : Prop :=
  ∀ s t : State, step s = .next t →
    t.cfg = s.cfg ∧
    (s.regs.initialized = true ∨ (∀ op rest, s.inbox = op :: rest → op.cw &&& 0x3 ≠ 0x1) →
      t.regs.initialized = s.regs.initialized ∧ t.regs.physAddr = s.regs.physAddr ∧
      t.regs.devType = s.regs.devType ∧ t.regs.promiscuous = s.regs.promiscuous ∧ t.regs.monitor = s.regs.monitor)

/-- R23, R122: INIT and XMIT never change `st`, the timers, the line or the receive path, and emit no event; only RUN does. -/
def Obligations.OnlyRunAdvancesProtocol : Prop :=
  ∀ (i : Instr) (s t : State), i.isCommand = true → (∀ l, i ≠ .run l) → exec i s = .next t →
    t.regs.st = s.regs.st ∧ t.regs.waitTime = s.regs.waitTime ∧ t.regs.bitStartTime = s.regs.bitStartTime ∧
    t.regs.lineSetTime = s.regs.lineSetTime ∧ t.regs.lastLineState = s.regs.lastLineState ∧
    t.regs.lineOut = s.regs.lineOut ∧ t.regs.rxBuf = s.regs.rxBuf ∧ t.regs.rxBitCount = s.regs.rxBitCount ∧
    t.regs.rxEom = s.regs.rxEom ∧ t.regs.rxNak = s.regs.rxNak ∧ t.regs.rxFollower = s.regs.rxFollower ∧
    t.regs.rxBroadcast = s.regs.rxBroadcast ∧ t.regs.txBitIndex = s.regs.txBitIndex ∧
    t.regs.lastInitiator = s.regs.lastInitiator ∧ t.regs.la = s.regs.la ∧ t.out.events = s.out.events

/-- R21, R117 (d): once claimed, the logical address never changes, and it is taken only with a READY event that reports it. -/
def Obligations.AddressIsWrittenOnce : Prop :=
  ∀ (s t : State) (op : HostOp), s.Inv → performOp op s = .next t →
    (∀ a, s.regs.la = some a → t.regs.la = some a ∧ readyAddresses t.out.events = []) ∧
    (s.regs.la = none → readyAddresses t.out.events = t.regs.la.toList)

/-- R117 (a), (d): over any session of a block with legal parameters, whatever the host issues, the READY events are exactly
the one address the block holds at the end, or none when it holds none; so READY is emitted at most once. -/
def Obligations.ReadyReportsTheClaimedAddress : Prop :=
  ∀ (c : Config) (ops : List HostOp) (x : Session), c.ok = true → Session.run ops (Session.fresh c) = some x →
    readyAddresses x.events = x.machine.regs.la.toList

/-- R110, R46: a pending frame leaves the transmit buffer only by one TX_COMPLETE that carries a copy of it. In one operation
either the frame stays pending, byte for byte, with no TX_COMPLETE, or exactly one is emitted, with the frame's bytes and
length; and with nothing pending none is emitted. -/
def Obligations.FrameLeavesOnlyByReport : Prop :=
  ∀ (s t : State) (op : HostOp), s.Inv → performOp op s = .next t →
    (s.regs.txByteCount = 0 → txReports t.out.events = []) ∧
    (0 < s.regs.txByteCount →
      (txReports t.out.events = [] ∧ t.regs.txByteCount = s.regs.txByteCount ∧
        ∀ j, t.regs.txBuf.read j = s.regs.txBuf.read j) ∨
      ∃ ok : Bool, txReports t.out.events = [(bytesOf s.regs.txBuf s.regs.txByteCount, s.regs.txByteCount, ok)])

/-- R119: one operation emits at most two events, and two only as a release followed by a delivery, or a report followed by
READY. -/
def Obligations.AtMostTwoEvents : Prop :=
  ∀ (s t : State) (op : HostOp), performOp op s = .next t →
    t.out.events.length ≤ 1 ∨
    (∃ bs n ack, t.out.events = [.setLine .high, .rxComplete bs n ack]) ∨
    (∃ bs n ok a, t.out.events = [.txComplete bs n ok, .ready a])

/-- R19: `promiscuous` affects delivery only. Two blocks that differ in that flag alone end a RUN with registers that differ in
that flag alone, drive the line alike, and report alike but for RX_COMPLETE. -/
def Obligations.PromiscuousAffectsDeliveryOnly : Prop :=
  ∀ (s t u : State) (l : Level) (b : Bool), exec (.run l) s = .next t →
    exec (.run l) { s with regs := { s.regs with promiscuous := b } } = .next u →
    { t.regs with promiscuous := b } = u.regs ∧ lineDrives t.out.events = lineDrives u.out.events ∧
    txReports t.out.events = txReports u.out.events ∧ readyAddresses t.out.events = readyAddresses u.out.events

/-- R131: the operating mode changes only from unconfigured to monitor, allocating or unclaimed, and from allocating to claimed. -/
def Obligations.ModeTransitions : Prop :=
  ∀ s t : State, s.Inv → step s = .next t →
    t.regs.mode = s.regs.mode ∨
    (s.regs.mode = .unconfigured ∧ t.regs.mode ∈ [Mode.monitor, .allocating, .unclaimed]) ∨
    (s.regs.mode = .allocating ∧ t.regs.mode = .claimed)

/-- R143: a line stuck low holds the block in `RCV_LINEERROR` and `XMIT_ACK_WAIT`, where RUN changes nothing, and in `IDLE`,
where it writes no register and emits nothing. -/
def Obligations.StuckLowLineIsInert : Prop :=
  ∀ s : State, s.regs.initialized = true → s.regs.lastLineState = .low →
    (∀ p : Phase, waitsForever p = true → s.regs.st = p.code → s.regs.waitTime = none → exec (.run .low) s = .next s) ∧
    (s.regs.st = Phase.code .idle →
      ∃ t : State, exec (.run .low) s = .next t ∧ t.regs = s.regs ∧ t.out = s.out)

/-- R40, R41, R81, R94: a frame of up to CAP bytes, presented bit for bit in line order to a receive buffer at its frame start,
is rebuilt byte for byte, with its bit count. -/
def Obligations.SentFrameIsReceived : Prop :=
  ∀ (m : Memory) (n : Nat) (s : State), n ≤ s.cfg.cap → s.regs.rxBuf = [] → s.regs.rxBitCount = 0 →
    ∃ t : State, shiftInAll (frameBits m n) s = .next t ∧ t.regs.rxBitCount = 8 * n ∧
      bytesOf t.regs.rxBuf n = bytesOf m n ∧ ∀ j, n ≤ j → t.regs.rxBuf.read j = 0

/-- R135: the line is the wired-AND of every device's drive and the external level; in a sequential tick the second device
samples the bus as the first has left it, in a simultaneous one as it stood before. -/
def Obligations.BusIsWiredAnd : Prop :=
  (∀ b : Bus, b.level = .low ↔ b.ext = .low ∨ ∃ d ∈ b.devices, d.regs.lineOut = .low) ∧
  (∀ (now : Nat) (ext : Level) (a b a' b' : State),
    let bus (x y : State) : Bus := { devices := [x, y], ext := ext }
    runDevice now (bus a b).level a = .next a' →
    (runDevice now (bus a' b).level b = .next b' → (bus a b).tick now = .next (bus a' b')) ∧
    (runDevice now (bus a b).level b = .next b' → (bus a b).tickSim now = .next (bus a' b')))
end

