-- ==== Sys2Proof/Laws/Memory.lean ====
section
/-! SUPPORT. The buffers: a read after a write, the canonical form and that every operation keeps it, and that canonical buffers with the
same bytes are equal data. -/

namespace Sys2Proof.Machine

variable (m : Memory) (i j lo : Nat) (v : Byte)

@[simp] theorem Memory.read_nil : Memory.read [] i = 0 := rfl

@[simp] theorem Memory.read_zeroed : Memory.zeroed.read i = 0 := rfl

/-- An index not listed reads 0x00. -/
theorem Memory.read_unlisted (h : ∀ c ∈ m, c.1 ≠ i) : m.read i = 0 := by
  induction m with
  | nil => rfl
  | cons c m ih =>
    rw [Memory.read, if_neg (h c (List.mem_cons_self ..))]
    exact ih fun d hd => h d (List.mem_cons_of_mem _ hd)

@[simp] theorem Memory.zeroed_wf : Memory.zeroed.wf = true := rfl

theorem Memory.wfFrom_cons (a : Nat) (w : Byte) :
    Memory.wfFrom lo ((a, w) :: m) = true ↔ lo ≤ a ∧ w ≠ 0 ∧ Memory.wfFrom (a + 1) m = true := by
  simp [Memory.wfFrom, and_assoc]

theorem Memory.wfFrom_mono {lo hi : Nat} (h : lo ≤ hi) (hm : m.wfFrom hi = true) : m.wfFrom lo = true := by
  cases m with
  | nil => rfl
  | cons c m =>
    obtain ⟨a, w⟩ := c
    rw [Memory.wfFrom_cons] at hm ⊢
    exact ⟨by omega, hm.2⟩

/-- Below its first index a canonical buffer reads 0x00. -/
theorem Memory.read_below (h : m.wfFrom lo = true) (hi : i < lo) : m.read i = 0 := by
  induction m generalizing lo with
  | nil => rfl
  | cons c m ih =>
    obtain ⟨a, w⟩ := c
    rw [Memory.wfFrom_cons] at h
    rw [Memory.read, if_neg (by omega)]
    exact ih (a + 1) h.2.2 (by omega)

/-- A read after a write gives the byte written there and the old byte elsewhere. -/
theorem Memory.read_write_from (h : m.wfFrom lo = true) :
    (m.write i v).read j = if i = j then v else m.read j := by
  induction m generalizing lo with
  | nil => by_cases hv : v = 0#8 <;> simp [Memory.write, Memory.read, hv]
  | cons c m ih =>
    obtain ⟨a, w⟩ := c
    rw [Memory.wfFrom_cons] at h
    have h0 : j < a + 1 → Memory.read m j = 0 := Memory.read_below m j (a + 1) h.2.2
    have hrec := ih (a + 1) h.2.2
    rw [Memory.write]
    by_cases hia : i < a
    · rw [if_pos hia]
      by_cases hv : v = 0 <;> by_cases hij : i = j <;> simp_all [Memory.read]
      all_goals rw [if_neg (by omega)]; exact h0 (by omega)
    · by_cases hea : i = a
      · subst hea
        by_cases hv : v = 0 <;> by_cases hij : i = j <;> simp_all [Memory.read]
      · rw [if_neg hia, if_neg hea, Memory.read, Memory.read, hrec]
        by_cases haj : a = j <;> simp_all

theorem Memory.read_write (h : m.wf = true) : (m.write i v).read j = if i = j then v else m.read j :=
  Memory.read_write_from m i j 0 v h

/-- A write keeps the canonical form. -/
theorem Memory.write_wfFrom (h : m.wfFrom lo = true) (hi : lo ≤ i) : (m.write i v).wfFrom lo = true := by
  induction m generalizing lo with
  | nil => by_cases hv : v = 0#8 <;> simp [Memory.write, Memory.wfFrom, hv, hi]
  | cons c m ih =>
    obtain ⟨a, w⟩ := c
    rw [Memory.wfFrom_cons] at h
    obtain ⟨h1, h3, h4⟩ := h
    simp only [Memory.write]
    split_ifs with hia hv hea hv
    · exact (Memory.wfFrom_cons ..).2 ⟨h1, h3, h4⟩
    · exact (Memory.wfFrom_cons ..).2 ⟨hi, hv, (Memory.wfFrom_cons ..).2 ⟨by omega, h3, h4⟩⟩
    · exact Memory.wfFrom_mono m (by omega) h4
    · exact (Memory.wfFrom_cons ..).2 ⟨hi, hv, hea ▸ h4⟩
    · exact (Memory.wfFrom_cons ..).2 ⟨h1, h3, ih (a + 1) h4 (by omega)⟩

theorem Memory.write_wf (h : m.wf = true) : (m.write i v).wf = true :=
  Memory.write_wfFrom m i 0 v h (by omega)

/-- Two canonical buffers with the same bytes are equal data. -/
theorem Memory.ext_from (m' : Memory) (h : m.wfFrom lo = true) (h' : m'.wfFrom lo = true)
    (hr : ∀ i, m.read i = m'.read i) : m = m' := by
  induction m generalizing m' lo with
  | nil =>
    cases m' with
    | nil => rfl
    | cons c m' =>
      obtain ⟨a, w⟩ := c
      rw [Memory.wfFrom_cons] at h'
      have := hr a
      simp [Memory.read] at this
      exact absurd this.symm h'.2.1
  | cons c m ih =>
    obtain ⟨a, w⟩ := c
    rw [Memory.wfFrom_cons] at h
    cases m' with
    | nil =>
      have := hr a
      simp [Memory.read] at this
      exact absurd this h.2.1
    | cons c' m' =>
      obtain ⟨a', w'⟩ := c'
      rw [Memory.wfFrom_cons] at h'
      have haa : a = a' := by
        rcases Nat.lt_trichotomy a a' with hlt | heq | hgt
        · have := hr a
          rw [Memory.read, if_pos rfl, Memory.read_below ((a', w') :: m') a a'
            ((Memory.wfFrom_cons ..).2 ⟨le_refl _, h'.2⟩) hlt] at this
          exact absurd this h.2.1
        · exact heq
        · have := hr a'
          rw [Memory.read_below ((a, w) :: m) a' a ((Memory.wfFrom_cons ..).2 ⟨le_refl _, h.2⟩) hgt, Memory.read,
            if_pos rfl] at this
          exact absurd this.symm h'.2.1
      subst haa
      have hw : w = w' := by simpa [Memory.read] using hr a
      subst hw
      congr 1
      refine ih (a + 1) m' h.2.2 h'.2.2 fun i => ?_
      by_cases hi : i < a + 1
      · rw [Memory.read_below m i (a + 1) h.2.2 hi, Memory.read_below m' i (a + 1) h'.2.2 hi]
      · have := hr i
        simpa [Memory.read, show a ≠ i by omega] using this

theorem Memory.ext_of_read (m' : Memory) (h : m.wf = true) (h' : m'.wf = true) (hr : ∀ i, m.read i = m'.read i) : m = m' :=
  Memory.ext_from m 0 m' h h' hr

/-- Writing a list keeps the canonical form. -/
theorem Memory.writeList_wf (bs : List Byte) (h : m.wf = true) :
    (m.writeList i bs).wf = true := by
  induction bs generalizing m i with
  | nil => exact h
  | cons b bs ih =>
    exact ih (m.write i b) (i + 1) (Memory.write_wf m i b h)

/-- A read after a list write: the list's byte inside the written range, the old byte outside it. -/
theorem Memory.read_writeList (bs : List Byte) (h : m.wf = true) :
    (m.writeList i bs).read j = if i ≤ j ∧ j < i + bs.length then bs.getD (j - i) 0 else m.read j := by
  induction bs generalizing m i with
  | nil => simp [Memory.writeList, show ¬(i ≤ j ∧ j < i) by omega]
  | cons b bs ih =>
    rw [Memory.writeList, ih (m.write i b) (i + 1) (Memory.write_wf m i b h),
      Memory.read_write m i j b h, List.length_cons]
    by_cases h1 : i = j
    · subst h1
      simp
    · by_cases h2 : i + 1 ≤ j ∧ j < i + 1 + bs.length
      · rw [if_pos h2, if_pos (by omega), show j - i = (j - (i + 1)) + 1 by omega, List.getD_cons_succ]
      · rw [if_neg h2, if_neg h1, if_neg (by omega)]

/-! ### The checked accesses -/

variable (c : Config)

theorem memRead_eq (h : i < c.cap) : memRead c m i = some (m.read i) := by simp [memRead, h]

theorem readBytes_eq (n : Nat) (h : n ≤ c.cap) : readBytes c m n = some ((List.range n).map m.read) := by
  simp [readBytes, h]

/-- A byte inside the buffer is read; one outside it faults (R39). -/
theorem withByte_eq (k : Byte → Result) :
    withByte c m i k = if i < c.cap then k (m.read i) else .fault (.bufferIndex i) := by
  unfold withByte memRead
  by_cases h : i < c.cap <;> simp [h]

theorem withBytes_eq (n : Nat) (k : List Byte → Result) :
    withBytes c m n k = if n ≤ c.cap then k ((List.range n).map m.read) else .fault (.bufferIndex (n - 1)) := by
  unfold withBytes readBytes
  by_cases h : n ≤ c.cap <;> simp [h]

/-- Accesses inside the buffer happen (R39). -/
theorem withRoom_eq {c : Config} {n : Nat} (r : Result) (h : n ≤ c.cap) : withRoom c n r = r := if_pos h

theorem withRoom_eq_next {c : Config} {n : Nat} {r : Result} {t : State} :
    withRoom c n r = .next t ↔ n ≤ c.cap ∧ r = .next t := by
  unfold withRoom
  split <;> simp_all

/-! ### Program order -/

@[simp] theorem andThen_next (s : State) (f : State → Result) : andThen (.next s) f = f s := rfl
@[simp] theorem andThen_fault (e : Fault) (f : State → Result) : andThen (.fault e) f = .fault e := rfl
@[simp] theorem andThen_refused (e : Refusal) (f : State → Result) : andThen (.refused e) f = .refused e := rfl

theorem andThen_eq_next {r : Result} {f : State → Result} {t : State} :
    andThen r f = .next t ↔ ∃ u, r = .next u ∧ f u = .next t := by
  cases r <;> simp [andThen]

end Sys2Proof.Machine
end

