-- ==== Sys2Proof/Laws/State.lean ====
section
/-! SUPPORT. What each update of the state leaves in each of the state's fields, so that no later proof unfolds an update. -/

namespace Sys2Proof.Machine

variable (s : State)

@[simp] theorem emit_regs (e : Event) : (emit e s).regs = s.regs := rfl
@[simp] theorem emit_out (e : Event) : (emit e s).out = { s.out with events := s.out.events ++ [e] } := rfl
@[simp] theorem emit_cfg (e : Event) : (emit e s).cfg = s.cfg := rfl
@[simp] theorem emit_inbox (e : Event) : (emit e s).inbox = s.inbox := rfl
@[simp] theorem emit_op (e : Event) : (emit e s).op = s.op := rfl
@[simp] theorem emit_arm (e : Event) : (emit e s).arm = s.arm := rfl

@[simp] theorem note_regs (c : Cause) : (note c s).regs = s.regs := rfl
@[simp] theorem note_out (c : Cause) : (note c s).out = { s.out with trace := s.out.trace ++ [c] } := rfl
@[simp] theorem note_cfg (c : Cause) : (note c s).cfg = s.cfg := rfl
@[simp] theorem note_inbox (c : Cause) : (note c s).inbox = s.inbox := rfl
@[simp] theorem note_op (c : Cause) : (note c s).op = s.op := rfl
@[simp] theorem note_arm (c : Cause) : (note c s).arm = s.arm := rfl

@[simp] theorem setOk_regs (b : Bool) : (setOk b s).regs = s.regs := rfl
@[simp] theorem setOk_out (b : Bool) : (setOk b s).out = { s.out with ok := some b } := rfl
@[simp] theorem setOk_cfg (b : Bool) : (setOk b s).cfg = s.cfg := rfl
@[simp] theorem setOk_inbox (b : Bool) : (setOk b s).inbox = s.inbox := rfl
@[simp] theorem setOk_op (b : Bool) : (setOk b s).op = s.op := rfl
@[simp] theorem setOk_arm (b : Bool) : (setOk b s).arm = s.arm := rfl

@[simp] theorem goto_regs (p : Phase) (w : Option Nat) : (goto p w s).regs = { s.regs with st := p.code, waitTime := w } := rfl
@[simp] theorem goto_out (p : Phase) (w : Option Nat) : (goto p w s).out = s.out := rfl
@[simp] theorem goto_cfg (p : Phase) (w : Option Nat) : (goto p w s).cfg = s.cfg := rfl
@[simp] theorem goto_inbox (p : Phase) (w : Option Nat) : (goto p w s).inbox = s.inbox := rfl
@[simp] theorem goto_op (p : Phase) (w : Option Nat) : (goto p w s).op = s.op := rfl
@[simp] theorem goto_arm (p : Phase) (w : Option Nat) : (goto p w s).arm = s.arm := rfl

@[simp] theorem toIdle_regs : (toIdle s).regs = { s.regs with st := Phase.code .idle, waitTime := some 0 } := rfl
@[simp] theorem toIdle_out : (toIdle s).out = s.out := rfl
@[simp] theorem toIdle_cfg : (toIdle s).cfg = s.cfg := rfl
@[simp] theorem toIdle_inbox : (toIdle s).inbox = s.inbox := rfl
@[simp] theorem toIdle_op : (toIdle s).op = s.op := rfl
@[simp] theorem toIdle_arm : (toIdle s).arm = s.arm := rfl

@[simp] theorem markBitStart_regs : (markBitStart s).regs = { s.regs with bitStartTime := s.arm.now } := rfl
@[simp] theorem markBitStart_out : (markBitStart s).out = s.out := rfl
@[simp] theorem markBitStart_cfg : (markBitStart s).cfg = s.cfg := rfl
@[simp] theorem markBitStart_inbox : (markBitStart s).inbox = s.inbox := rfl
@[simp] theorem markBitStart_op : (markBitStart s).op = s.op := rfl
@[simp] theorem markBitStart_arm : (markBitStart s).arm = s.arm := rfl

@[simp] theorem setLine_regs (v : Level) : (setLine v s).regs = { s.regs with lineOut := v, lastLineState := v, lineSetTime := s.arm.now } := rfl
@[simp] theorem setLine_out (v : Level) : (setLine v s).out = { s.out with events := s.out.events ++ [.setLine v] } := rfl
@[simp] theorem setLine_cfg (v : Level) : (setLine v s).cfg = s.cfg := rfl
@[simp] theorem setLine_inbox (v : Level) : (setLine v s).inbox = s.inbox := rfl
@[simp] theorem setLine_op (v : Level) : (setLine v s).op = s.op := rfl
@[simp] theorem setLine_arm (v : Level) : (setLine v s).arm = s.arm := rfl

@[simp] theorem beginLow_regs : (beginLow s).regs = { s.regs with bitStartTime := s.arm.now, lineOut := .low, lastLineState := .low, lineSetTime := s.arm.now } := rfl
@[simp] theorem beginLow_out : (beginLow s).out = { s.out with events := s.out.events ++ [.setLine .low] } := rfl
@[simp] theorem beginLow_cfg : (beginLow s).cfg = s.cfg := rfl
@[simp] theorem beginLow_inbox : (beginLow s).inbox = s.inbox := rfl
@[simp] theorem beginLow_op : (beginLow s).op = s.op := rfl
@[simp] theorem beginLow_arm : (beginLow s).arm = s.arm := rfl

@[simp] theorem observe_regs (l : Level) (now : Nat) : (observe l now s).regs = { s.regs with lastLineState := l, lineSetTime := now } := rfl
@[simp] theorem observe_out (l : Level) (now : Nat) : (observe l now s).out = s.out := rfl
@[simp] theorem observe_cfg (l : Level) (now : Nat) : (observe l now s).cfg = s.cfg := rfl
@[simp] theorem observe_inbox (l : Level) (now : Nat) : (observe l now s).inbox = s.inbox := rfl
@[simp] theorem observe_op (l : Level) (now : Nat) : (observe l now s).op = s.op := rfl
@[simp] theorem observe_arm (l : Level) (now : Nat) : (observe l now s).arm = s.arm := rfl

@[simp] theorem forceNak_regs (b : Bool) : (forceNak b s).regs = { s.regs with rxNak := s.regs.rxNak || b } := rfl
@[simp] theorem forceNak_out (b : Bool) : (forceNak b s).out = s.out := rfl
@[simp] theorem forceNak_cfg (b : Bool) : (forceNak b s).cfg = s.cfg := rfl
@[simp] theorem forceNak_inbox (b : Bool) : (forceNak b s).inbox = s.inbox := rfl
@[simp] theorem forceNak_op (b : Bool) : (forceNak b s).op = s.op := rfl
@[simp] theorem forceNak_arm (b : Bool) : (forceNak b s).arm = s.arm := rfl

@[simp] theorem dropFrame_regs : (dropFrame s).regs = { s.regs with txByteCount := 0 } := rfl
@[simp] theorem dropFrame_out : (dropFrame s).out = s.out := rfl
@[simp] theorem dropFrame_cfg : (dropFrame s).cfg = s.cfg := rfl
@[simp] theorem dropFrame_inbox : (dropFrame s).inbox = s.inbox := rfl
@[simp] theorem dropFrame_op : (dropFrame s).op = s.op := rfl
@[simp] theorem dropFrame_arm : (dropFrame s).arm = s.arm := rfl

@[simp] theorem markInitiator_regs : (markInitiator s).regs = { s.regs with lastInitiator := true } := rfl
@[simp] theorem markInitiator_out : (markInitiator s).out = s.out := rfl
@[simp] theorem markInitiator_cfg : (markInitiator s).cfg = s.cfg := rfl
@[simp] theorem markInitiator_inbox : (markInitiator s).inbox = s.inbox := rfl
@[simp] theorem markInitiator_op : (markInitiator s).op = s.op := rfl
@[simp] theorem markInitiator_arm : (markInitiator s).arm = s.arm := rfl

@[simp] theorem startFrame_regs : (startFrame s).regs = { s.regs with
      rxBuf := Memory.zeroed, rxBitCount := 0, rxEom := false, rxNak := false, rxFollower := false, rxBroadcast := false,
      lastInitiator := false, bitStartTime := s.arm.now, st := Phase.code .rcvStartbit1,
      waitTime := some s.cfg.startLowTimeout } := rfl
@[simp] theorem startFrame_out : (startFrame s).out = s.out := rfl
@[simp] theorem startFrame_cfg : (startFrame s).cfg = s.cfg := rfl
@[simp] theorem startFrame_inbox : (startFrame s).inbox = s.inbox := rfl
@[simp] theorem startFrame_op : (startFrame s).op = s.op := rfl
@[simp] theorem startFrame_arm : (startFrame s).arm = s.arm := rfl

@[simp] theorem abandon_regs (c : Cause) : (abandon c s).regs = { s.regs with st := Phase.code .idle, waitTime := some 0 } := rfl
@[simp] theorem abandon_out (c : Cause) : (abandon c s).out = { s.out with trace := s.out.trace ++ [c] } := rfl
@[simp] theorem abandon_cfg (c : Cause) : (abandon c s).cfg = s.cfg := rfl
@[simp] theorem abandon_inbox (c : Cause) : (abandon c s).inbox = s.inbox := rfl
@[simp] theorem abandon_op (c : Cause) : (abandon c s).op = s.op := rfl
@[simp] theorem abandon_arm (c : Cause) : (abandon c s).arm = s.arm := rfl

@[simp] theorem lineError_regs : (lineError s).regs = { s.regs with st := Phase.code .rcvLineerror, waitTime := none } := rfl
@[simp] theorem lineError_out : (lineError s).out = { s.out with trace := s.out.trace ++ [.rxLineError] } := rfl
@[simp] theorem lineError_cfg : (lineError s).cfg = s.cfg := rfl
@[simp] theorem lineError_inbox : (lineError s).inbox = s.inbox := rfl
@[simp] theorem lineError_op : (lineError s).op = s.op := rfl
@[simp] theorem lineError_arm : (lineError s).arm = s.arm := rfl

@[simp] theorem inspectHeader_regs (b : Bool) : (inspectHeader b s).regs = { s.regs with rxEom := b, rxBroadcast := isBroadcast s.cfg (s.regs.rxBuf.read 0), rxFollower := isFollower s (s.regs.rxBuf.read 0) } := rfl
@[simp] theorem inspectHeader_out (b : Bool) : (inspectHeader b s).out = s.out := rfl
@[simp] theorem inspectHeader_cfg (b : Bool) : (inspectHeader b s).cfg = s.cfg := rfl
@[simp] theorem inspectHeader_inbox (b : Bool) : (inspectHeader b s).inbox = s.inbox := rfl
@[simp] theorem inspectHeader_op (b : Bool) : (inspectHeader b s).op = s.op := rfl
@[simp] theorem inspectHeader_arm (b : Bool) : (inspectHeader b s).arm = s.arm := rfl

@[simp] theorem probeStaged_regs (a : LogAddr) : (probeStaged a s).regs = { s.regs with txBuf := s.regs.txBuf.write 0 (header a a), txByteCount := 1, retry := 0 } := rfl
@[simp] theorem probeStaged_out (a : LogAddr) : (probeStaged a s).out = s.out := rfl
@[simp] theorem probeStaged_cfg (a : LogAddr) : (probeStaged a s).cfg = s.cfg := rfl
@[simp] theorem probeStaged_inbox (a : LogAddr) : (probeStaged a s).inbox = s.inbox := rfl
@[simp] theorem probeStaged_op (a : LogAddr) : (probeStaged a s).op = s.op := rfl
@[simp] theorem probeStaged_arm (a : LogAddr) : (probeStaged a s).arm = s.arm := rfl

@[simp] theorem takeAddress_regs (a : LogAddr) : (takeAddress a s).regs = { s.regs with la := some a, allocating := false } := rfl
@[simp] theorem takeAddress_out (a : LogAddr) : (takeAddress a s).out = { s.out with events := s.out.events ++ [.ready a] } := rfl
@[simp] theorem takeAddress_cfg (a : LogAddr) : (takeAddress a s).cfg = s.cfg := rfl
@[simp] theorem takeAddress_inbox (a : LogAddr) : (takeAddress a s).inbox = s.inbox := rfl
@[simp] theorem takeAddress_op (a : LogAddr) : (takeAddress a s).op = s.op := rfl
@[simp] theorem takeAddress_arm (a : LogAddr) : (takeAddress a s).arm = s.arm := rfl

@[simp] theorem configure_regs (pa : BitVec 16) (t : BitVec 3) (p m : Bool) : (configure pa t p m s).regs = { s.regs with initialized := true, physAddr := pa, devType := t, promiscuous := p, monitor := m } := rfl
@[simp] theorem configure_out (pa : BitVec 16) (t : BitVec 3) (p m : Bool) : (configure pa t p m s).out = s.out := rfl
@[simp] theorem configure_cfg (pa : BitVec 16) (t : BitVec 3) (p m : Bool) : (configure pa t p m s).cfg = s.cfg := rfl
@[simp] theorem configure_inbox (pa : BitVec 16) (t : BitVec 3) (p m : Bool) : (configure pa t p m s).inbox = s.inbox := rfl
@[simp] theorem configure_op (pa : BitVec 16) (t : BitVec 3) (p m : Bool) : (configure pa t p m s).op = s.op := rfl
@[simp] theorem configure_arm (pa : BitVec 16) (t : BitVec 3) (p m : Bool) : (configure pa t p m s).arm = s.arm := rfl

@[simp] theorem stageFrame_regs (a t : LogAddr) (n : Nat) : (stageFrame a t n s).regs = { s.regs with txBuf := (s.regs.txBuf.write 0 (header a t)).writeList 1 (payloadBytes s n), txByteCount := n + 1, retry := 0 } := rfl
@[simp] theorem stageFrame_out (a t : LogAddr) (n : Nat) : (stageFrame a t n s).out = s.out := rfl
@[simp] theorem stageFrame_cfg (a t : LogAddr) (n : Nat) : (stageFrame a t n s).cfg = s.cfg := rfl
@[simp] theorem stageFrame_inbox (a t : LogAddr) (n : Nat) : (stageFrame a t n s).inbox = s.inbox := rfl
@[simp] theorem stageFrame_op (a t : LogAddr) (n : Nat) : (stageFrame a t n s).op = s.op := rfl
@[simp] theorem stageFrame_arm (a t : LogAddr) (n : Nat) : (stageFrame a t n s).arm = s.arm := rfl

/-! The updates with a case in them. -/

theorem releaseLine_eq (h : s.regs.lineOut = .high) : releaseLine s = s := by simp [releaseLine, h]

@[simp] theorem releaseLine_regs : (releaseLine s).regs = { s.regs with lineOut := .high } := by
  unfold releaseLine
  split
  · rfl
  · next h => rw [← h]

@[simp] theorem releaseLine_cfg : (releaseLine s).cfg = s.cfg := by unfold releaseLine; split <;> rfl
@[simp] theorem releaseLine_inbox : (releaseLine s).inbox = s.inbox := by unfold releaseLine; split <;> rfl
@[simp] theorem releaseLine_op : (releaseLine s).op = s.op := by unfold releaseLine; split <;> rfl
@[simp] theorem releaseLine_arm : (releaseLine s).arm = s.arm := by unfold releaseLine; split <;> rfl

@[simp] theorem releaseLine_out : (releaseLine s).out =
    { s.out with events := s.out.events ++ (if s.regs.lineOut = .low then [.setLine .high] else []) } := by
  unfold releaseLine
  split <;> simp_all

@[simp] theorem abort_regs : (abort s).regs =
    { s.regs with st := Phase.code .idle, waitTime := some 0, lineOut := .high } := by simp [abort]

@[simp] theorem abort_out : (abort s).out =
    { s.out with
      events := s.out.events ++ (if s.regs.lineOut = .low then [.setLine .high] else [])
      trace := s.out.trace ++ [.txArbitration] } := by
  simp [abort]
  rfl

@[simp] theorem abort_cfg : (abort s).cfg = s.cfg := by simp [abort]
@[simp] theorem abort_inbox : (abort s).inbox = s.inbox := by simp [abort]
@[simp] theorem abort_op : (abort s).op = s.op := by simp [abort]
@[simp] theorem abort_arm : (abort s).arm = s.arm := by simp [abort]

@[simp] theorem noteTolerance_regs : (noteTolerance s).regs =
    { s.regs with rxNak := s.regs.rxNak || outOfTolerance s } := by
  unfold noteTolerance
  split <;> simp_all

@[simp] theorem noteTolerance_out : (noteTolerance s).out =
    { s.out with
      trace := s.out.trace ++ (if outOfTolerance s then [.rxBitTolerance] else []) } := by
  unfold noteTolerance
  split <;> simp_all

@[simp] theorem noteTolerance_cfg : (noteTolerance s).cfg = s.cfg := by unfold noteTolerance; split <;> rfl
@[simp] theorem noteTolerance_inbox : (noteTolerance s).inbox = s.inbox := by unfold noteTolerance; split <;> rfl
@[simp] theorem noteTolerance_op : (noteTolerance s).op = s.op := by unfold noteTolerance; split <;> rfl
@[simp] theorem noteTolerance_arm : (noteTolerance s).arm = s.arm := by unfold noteTolerance; split <;> rfl

@[simp] theorem noteOverflow_regs : (noteOverflow s).regs = { s.regs with rxNak := s.regs.rxNak || overflows s } := by
  unfold noteOverflow
  split <;> simp_all

@[simp] theorem noteOverflow_out : (noteOverflow s).out =
    { s.out with trace := s.out.trace ++ (if overflows s then [.rxOverflow] else []) } := by
  unfold noteOverflow
  split <;> simp_all

@[simp] theorem noteOverflow_cfg : (noteOverflow s).cfg = s.cfg := by unfold noteOverflow; split <;> rfl
@[simp] theorem noteOverflow_inbox : (noteOverflow s).inbox = s.inbox := by unfold noteOverflow; split <;> rfl
@[simp] theorem noteOverflow_op : (noteOverflow s).op = s.op := by unfold noteOverflow; split <;> rfl
@[simp] theorem noteOverflow_arm : (noteOverflow s).arm = s.arm := by unfold noteOverflow; split <;> rfl

@[simp] theorem latchArm_regs (l : Level) (n : Nat) (c : Bool) : (latchArm l n c s).regs = s.regs := rfl
@[simp] theorem latchArm_cfg (l : Level) (n : Nat) (c : Bool) : (latchArm l n c s).cfg = s.cfg := rfl
@[simp] theorem latchArm_inbox (l : Level) (n : Nat) (c : Bool) : (latchArm l n c s).inbox = s.inbox := rfl
@[simp] theorem latchArm_op (l : Level) (n : Nat) (c : Bool) : (latchArm l n c s).op = s.op := rfl
@[simp] theorem latchArm_out (l : Level) (n : Nat) (c : Bool) : (latchArm l n c s).out = s.out := rfl
@[simp] theorem latchArm_arm (l : Level) (n : Nat) (c : Bool) :
    (latchArm l n c s).arm = { now := n, line := l, changed := c, elapsed := elapsedAt s n } := rfl

@[simp] theorem accept_regs (o : HostOp) : (s.accept o).regs = s.regs := rfl
@[simp] theorem accept_cfg (o : HostOp) : (s.accept o).cfg = s.cfg := rfl
@[simp] theorem accept_inbox (o : HostOp) : (s.accept o).inbox = s.inbox := rfl
@[simp] theorem accept_op (o : HostOp) : (s.accept o).op = { now := o.now, payload := o.payload } := rfl
@[simp] theorem accept_arm (o : HostOp) : (s.accept o).arm = s.arm := rfl
@[simp] theorem accept_out (o : HostOp) : (s.accept o).out = Outputs.empty := rfl

end Sys2Proof.Machine
end

