-- ==== Sys2Proof/Laws/Ops.lean ====
section
/-! SUPPORT. One lemma per shared operation that says what it does: decoding of state codes, time differences, the shift-in, delivery,
the resolutions, the allocator's step, dispatch, and what a step that answers a next state can have done. -/

namespace Sys2Proof.Machine

variable (s t : State)

/-! ### State codes -/

@[simp] theorem decodePhase_code (p : Phase) : decodePhase p.code = some p := by cases p <;> rfl

theorem code_injective {p q : Phase} (h : p.code = q.code) : p = q := by
  have := congrArg decodePhase h
  simpa using this

theorem decodePhase_eq_some {c : StateCode} {p : Phase} (h : decodePhase c = some p) : c = p.code := by
  revert h
  revert c p
  decide

theorem decodePhase_eq_none (c : StateCode) : decodePhase c = none ↔ 22 ≤ c.toNat := by
  revert c
  decide

/-- A RUN dispatches the arm its state's code selects (R73). -/
theorem dispatchArm_eq_exec {p : Phase} (h : s.regs.st = p.code) : dispatchArm s = exec p.arm s := by
  unfold dispatchArm
  rw [h, decodePhase_code]
  cases p <;> rfl

/-! ### Time -/

theorem timeDiff_lt (c : Config) (a b : Nat) : timeDiff c a b < 2 ^ c.timeWidth := by
  have hm : (0 : Int) < ((2 ^ c.timeWidth : Nat) : Int) := by exact_mod_cast Nat.two_pow_pos _
  have h0 := Int.emod_nonneg ((a : Int) - b) (ne_of_gt hm)
  have h1 := Int.emod_lt_of_pos ((a : Int) - b) hm
  exact (Int.toNat_lt h0).2 h1

@[simp] theorem timeDiff_self (c : Config) (a : Nat) : timeDiff c a a = 0 := by simp [timeDiff]

/-- Only the residues of the two times count: the difference survives a wrap of either (R10). -/
theorem timeDiff_mod (c : Config) (a b : Nat) :
    timeDiff c (a % 2 ^ c.timeWidth) (b % 2 ^ c.timeWidth) = timeDiff c a b := by
  unfold timeDiff
  congr 1
  push_cast
  simp [Int.sub_emod]

/-- Moving both times on by the same amount leaves their difference (R10). -/
theorem timeDiff_add (c : Config) (a b k : Nat) : timeDiff c (a + k) (b + k) = timeDiff c a b := by
  unfold timeDiff
  push_cast
  rw [show ((a : Int) + k) - (b + k) = a - b by ring]

@[simp] theorem timeDiff_delay (c : Config) (a b k : Nat) :
    timeDiff c ((a + k) % 2 ^ c.timeWidth) ((b + k) % 2 ^ c.timeWidth) = timeDiff c a b := by
  rw [timeDiff_mod, timeDiff_add]

/-! ### The receive path -/

/-- `ShiftIn` inside the buffer (R81). -/
theorem shiftIn_eq (b : Bool) (h : s.regs.rxBitCount < 8 * s.cfg.cap) :
    shiftIn b s = .next { s with
      regs := { s.regs with
        rxBuf := s.regs.rxBuf.write (s.regs.rxBitCount >>> 3) (shiftByte (s.regs.rxBuf.read (s.regs.rxBitCount >>> 3)) b)
        rxBitCount := s.regs.rxBitCount + 1 } } := by
  have : s.regs.rxBitCount >>> 3 < s.cfg.cap := by
    rw [Nat.shiftRight_eq_div_pow]
    omega
  rw [shiftIn, withByte_eq, if_pos this]

/-- `Deliver` of a frame that fits the buffer (R91). -/
theorem deliver_eq (h : s.regs.rxBitCount ≤ 8 * s.cfg.cap) :
    deliver s = .next (toIdle (if delivers s then
      emit (.rxComplete (bytesOf s.regs.rxBuf (s.regs.rxBitCount / 8)) (s.regs.rxBitCount / 8) (rxAck s)) s else s)) := by
  unfold deliver
  split
  · rw [withBytes_eq, if_pos (by omega), bytesOf]
  · rfl

/-! ### The transmit path -/

/-- The one report of a frame that fits the buffer (R108, R109). -/
theorem reportAndDrop_eq (b : Bool) (h : s.regs.txByteCount ≤ s.cfg.cap) :
    reportAndDrop b s =
      .next (dropFrame (emit (.txComplete (bytesOf s.regs.txBuf s.regs.txByteCount) s.regs.txByteCount b) s)) := by
  rw [reportAndDrop, withBytes_eq, if_pos h, bytesOf]

/-- `TxBit` inside the buffer (R94). -/
theorem withTxBit_eq (i : Nat) (k : Bool → Result) (h : i < 8 * s.cfg.cap) :
    withTxBit s i k = k (lineBit (s.regs.txBuf.read (i / 8)) i) := by
  have : i >>> 3 = i / 8 := by rw [Nat.shiftRight_eq_div_pow]
  rw [withTxBit, withByte_eq, this, if_pos (by omega)]

theorem allocClaim_eq {a : LogAddr} (h : (candidatesFor s)[s.regs.candIdx]? = some a) :
    allocClaim s = .next (takeAddress a s) := by simp [allocClaim, h]

/-- An acknowledged probe with a next candidate (R114). -/
theorem allocAdvance_eq {a : LogAddr} (h : (candidatesFor s)[s.regs.candIdx + 1]? = some a) :
    allocAdvance s = (if a = s.cfg.laUnregistered
      then .next (takeAddress a { s with regs := { s.regs with candIdx := s.regs.candIdx + 1 } })
      else stageProbe a { s with regs := { s.regs with candIdx := s.regs.candIdx + 1 } }) := by
  have h' : (candidatesFor { s with regs := { s.regs with candIdx := s.regs.candIdx + 1 } })[s.regs.candIdx + 1]? = some a := h
  simp only [allocAdvance, h']
  split
  · next he => subst he; rfl
  · rfl

/-! ### The RUN step -/

theorem settleMasks_iff (n : Nat) :
    settleMasks s n = true ↔ timeDiff s.cfg n s.regs.lineSetTime < settleTime s.cfg s.regs.lastLineState :=
  decide_eq_true_iff

theorem elapsedAt_iff (n : Nat) :
    elapsedAt s n = true ↔ ∃ d, s.regs.waitTime = some d ∧ d ≤ timeDiff s.cfg n s.regs.bitStartTime := by
  unfold elapsedAt
  cases s.regs.waitTime with
  | none => simp
  | some d => exact ⟨fun h => ⟨d, rfl, of_decide_eq_true h⟩, fun ⟨_, he, h⟩ => decide_eq_true (Option.some.inj he ▸ h)⟩

theorem inArbStates_eq {p : Phase} (h : s.regs.st = p.code) : inArbStates s = arbitrated p := by
  simp [inArbStates, h]

theorem detect_same (n : Nat) : detect s.regs.lastLineState n s = s := by simp [detect, lineChanged]

theorem detect_changed {l : Level} (n : Nat) (h : l ≠ s.regs.lastLineState) :
    detect l n s = if inArbStates s then abort (observe l n s) else observe l n s := by simp [detect, lineChanged, h]

/-- A RUN past the settle window, with a changed line or an elapsed budget, is not quiet (R66, R69). -/
theorem isQuiet_eq_false {l : Level} {n : Nat} (hs : settleMasks s n = false)
    (h : l ≠ s.regs.lastLineState ∨ elapsedAt s n = true) : isQuiet l n s = false := by
  rcases h with h | h <;> simp [isQuiet, hs, lineChanged, h]

@[simp] theorem detect_cfg (l : Level) (n : Nat) : (detect l n s).cfg = s.cfg := by
  unfold detect; split_ifs <;> simp
@[simp] theorem detect_inbox (l : Level) (n : Nat) : (detect l n s).inbox = s.inbox := by
  unfold detect; split_ifs <;> simp
@[simp] theorem detect_op (l : Level) (n : Nat) : (detect l n s).op = s.op := by
  unfold detect; split_ifs <;> simp

/-- A RUN that is admitted either changes nothing or runs the arm selected after the prologue (R65, R66, R69, R73). -/
theorem execRun_eq {p : Phase} (l : Level) (hi : s.regs.initialized = true) (hp : s.regs.st = p.code) :
    execRun l s = if isQuiet l (portNow s) s then .next s else dispatchArm (prologue l (portNow s) s) := by
  simp [execRun, hi, hp, runStep]

/-- A RUN that answers a next state was admitted (R122, R57). -/
theorem execRun_next {l : Level} (h : execRun l s = .next t) : s.regs.initialized = true ∧ ∃ p, s.regs.st = Phase.code p := by
  unfold execRun at h
  split at h
  · cases h
  · next hi =>
    split at h
    · cases h
    · next p hp => exact ⟨by simpa using hi, p, decodePhase_eq_some hp⟩

/-! ### Steps -/

/-- A host operation that answers a next state had legal parameters, did not overlap, and ran its decoded instruction. -/
theorem performOp_next {op : HostOp} (h : performOp op s = .next t) :
    s.cfg.ok = true ∧ op.overlap = false ∧ ∃ i, decodeCommand op.cw = .accept i ∧ exec i (s.accept op) = .next t := by
  unfold performOp at h
  split at h
  · cases h
  · next hc =>
    split at h
    · cases h
    · next ho =>
      refine ⟨by simpa using hc, by simpa using ho, ?_⟩
      split at h
      · next i hi => exact ⟨i, hi, h⟩
      all_goals cases h

theorem performOp_eq {op : HostOp} {i : Instr} (hc : s.cfg.ok = true) (ho : op.overlap = false)
    (hd : decodeCommand op.cw = .accept i) : performOp op s = exec i (s.accept op) := by
  simp [performOp, hc, ho, hd]

/-- A command word decodes to one of the three host operations only (R51). -/
theorem decodeCommand_isCommand {cw : BitVec 32} {i : Instr} (h : decodeCommand cw = .accept i) : i.isCommand = true := by
  unfold decodeCommand decodeInit decodeXmit decodeRun at h
  split at h <;> (try split at h) <;> cases h <;> rfl

/-- What a step that answers a next state did: nothing was queued, or the next operation was performed. -/
theorem step_next (h : step s = .next t) :
    (s.inbox = [] ∧ s.cfg.ok = true ∧ t = s) ∨
      ∃ op rest, s.inbox = op :: rest ∧ performOp op { s with inbox := rest } = .next t := by
  unfold step at h
  split at h
  · next hi =>
    unfold inert at h
    split at h
    · cases h
    · next hc => exact .inl ⟨hi, by simpa using hc, by injection h with h; exact h.symm⟩
  · next op rest hi => exact .inr ⟨op, rest, hi, h⟩

end Sys2Proof.Machine
end

