-- ==== Sys2Proof/Laws/Arms.lean ====
section
/-! SUPPORT. What each shared operation of the arms can have done when it answered a next state, what a RUN that answered one can have
done, and the facts about windows, budgets, candidate lists and encoded fields that the claims rest on. -/

namespace Sys2Proof.Machine

variable {s t : State}

/-! ### Windows, flags, parameters -/

theorem inWindow_iff (c m d : Nat) : inWindow c m d = true ↔ c ≤ d + m ∧ d ≤ c + m := by simp [inWindow]

theorem inWindow_eq_false {c m d : Nat} (h : ¬(c ≤ d + m ∧ d ≤ c + m)) : inWindow c m d = false := by
  rw [← Bool.not_eq_true, inWindow_iff]
  exact h

/-- The acknowledge test (R105). -/
theorem acked_iff (l : Level) : acked s l = true ↔
    (if (s.regs.txBuf.read 0).extractLsb' 0 4 = s.cfg.laBroadcast then l = .high else l = .low) := by
  by_cases h : (s.regs.txBuf.read 0).extractLsb' 0 4 = s.cfg.laBroadcast <;> simp [acked, isBroadcast, destOf, h]

/-- The acknowledge drive (R86). -/
theorem ackDrive_iff : ackDrive s = true ↔ s.regs.monitor = false ∧
    ((s.regs.rxFollower = true ∧ s.regs.rxNak = false) ∨ (s.regs.rxBroadcast = true ∧ s.regs.rxNak = true)) := by
  simp [ackDrive]

/-- R8 (e): every budget an arm sets fits the counter. -/
theorem budget_lt {c : Config} {d : Nat} (hc : c.ok = true) (h : d ∈ c.budgets) : d < 2 ^ c.timeWidth := by
  simp only [Config.ok, Bool.and_eq_true, Config.okE, List.all_eq_true, decide_eq_true_eq] at hc
  exact hc.2.1.2 d h

/-- R7: a buffer has room for the header, and for every payload XMIT accepts. -/
theorem maxPayload_add_one {c : Config} (hc : c.ok = true) : c.maxPayload + 1 = c.cap := by
  simp only [Config.ok, Bool.and_eq_true, Config.okPayload, decide_eq_true_eq] at hc
  exact hc.1

/-- R8 (f) of the list of a device type. -/
theorem candidateListOk_candidatesOf {c : Config} (hc : c.ok = true) (d : BitVec 3) :
    c.candidateListOk (c.candidatesOf d) = true := by
  simp only [Config.ok, Bool.and_eq_true, Config.okF, List.all_eq_true] at hc
  unfold Config.candidatesOf
  rw [List.getD_eq_getElem?_getD]
  cases h : c.candidates[d.toNat]? with
  | none => rfl
  | some l => exact hc.2.2 l (List.mem_of_getElem? h)

/-- After a candidate that is not the unregistered address the list goes on (R8 (f)), so the allocator's step never runs past it. -/
theorem candidate_next {c : Config} (hc : c.ok = true) {d : BitVec 3} {i : Nat} {a : LogAddr}
    (h : (c.candidatesOf d)[i]? = some a) (hne : a ≠ c.laUnregistered) : ∃ b, (c.candidatesOf d)[i + 1]? = some b := by
  have hok := candidateListOk_candidatesOf hc d
  generalize c.candidatesOf d = l at *
  have hi : i < l.length := by
    by_contra hh
    simp [List.getElem?_eq_none (Nat.not_lt.1 hh)] at h
  simp only [Config.candidateListOk, Bool.or_eq_true, Bool.and_eq_true, decide_eq_true_eq] at hok
  rcases hok with hnil | ⟨⟨-, hlast⟩, -⟩
  · simp_all
  · by_cases hl : i + 1 < l.length
    · exact ⟨_, List.getElem?_eq_getElem hl⟩
    · rw [List.getLast?_eq_getElem?, show l.length - 1 = i by omega, h] at hlast
      exact absurd (Option.some.inj hlast) hne

/-! ### The receive path -/

theorem noteTolerance_eq : noteTolerance s = s.after { s.regs with rxNak := s.regs.rxNak || outOfTolerance s } []
    (if outOfTolerance s then [.rxBitTolerance] else []) := by
  cases h : outOfTolerance s <;> simp [noteTolerance, h, State.after, forceNak, note]

theorem noteOverflow_eq : noteOverflow s = s.after { s.regs with rxNak := s.regs.rxNak || overflows s } []
    (if overflows s then [.rxOverflow] else []) := by
  cases h : overflows s <;> simp [noteOverflow, h, State.after, forceNak, note]

theorem shiftIn_next {b : Bool} (h : shiftIn b s = .next t) : t = { s with
    regs := { s.regs with
      rxBuf := s.regs.rxBuf.write (s.regs.rxBitCount >>> 3) (shiftByte (s.regs.rxBuf.read (s.regs.rxBitCount >>> 3)) b)
      rxBitCount := s.regs.rxBitCount + 1 } } := by
  rw [shiftIn, withByte_eq] at h
  split at h <;> cases h
  rfl

theorem deliver_next (h : deliver s = .next t) : t = toIdle (if delivers s then
    emit (.rxComplete (bytesOf s.regs.rxBuf (s.regs.rxBitCount / 8)) (s.regs.rxBitCount / 8) (rxAck s)) s else s) := by
  unfold deliver at h
  by_cases hd : delivers s = true
  · rw [if_pos hd, withBytes_eq] at h
    split at h <;> cases h
    rw [if_pos hd]
    rfl
  · rw [if_neg hd] at h
    cases h
    rw [if_neg hd]

/-- After an ACK bit: the frame goes on, or ends with or without a delivery (R87, R88, R91). -/
theorem endBlock_next {e : Bool} (h : endBlock e s = .next t) :
    t = goto .rcvAck2 (some s.cfg.rxHighTimeout) s ∨ t = toIdle s ∨
      t = toIdle (emit (.rxComplete (bytesOf s.regs.rxBuf (s.regs.rxBitCount / 8)) (s.regs.rxBitCount / 8) (rxAck s)) s) := by
  cases e
  · cases h
    exact .inl rfl
  · have hd := deliver_next (h : deliver s = .next t)
    split at hd
    · exact .inr (.inr hd)
    · exact .inr (.inl hd)

/-- A bit shifted in stands at the byte's low end, above it the bits that stood below (R81). -/
theorem shiftByte_getLsbD (b : Byte) (x : Bool) (k : Nat) :
    (shiftByte b x).getLsbD k = (decide (k < 8) && if k = 0 then x else b.getLsbD (k - 1)) := by
  simp only [shiftByte, BitVec.getLsbD_or, BitVec.getLsbD_shiftLeft, BitVec.getLsbD_setWidth, BitVec.getLsbD_ofBool]
  rcases k with _ | k <;> simp

/-! ### The transmit path and the allocator -/

theorem reportAndDrop_next {b : Bool} (h : reportAndDrop b s = .next t) :
    t = dropFrame (emit (.txComplete (bytesOf s.regs.txBuf s.regs.txByteCount) s.regs.txByteCount b) s) := by
  rw [reportAndDrop, withBytes_eq] at h
  split at h <;> cases h
  rfl

/-- The allocator's step at a resolution: none, the claim, the fallback, or the next probe (R114 to R116). -/
theorem stepIfAllocating_next {b : Bool} (h : stepIfAllocating b s = .next t) :
    (s.regs.allocating = false ∧ t = s) ∨
    (s.regs.allocating = true ∧ b = false ∧ ∃ a, (candidatesFor s)[s.regs.candIdx]? = some a ∧ t = takeAddress a s) ∨
    (s.regs.allocating = true ∧ b = true ∧ ∃ a, (candidatesFor s)[s.regs.candIdx + 1]? = some a ∧ a = s.cfg.laUnregistered ∧
      t = takeAddress a { s with regs := { s.regs with candIdx := s.regs.candIdx + 1 } }) ∨
    (s.regs.allocating = true ∧ b = true ∧ ∃ a, (candidatesFor s)[s.regs.candIdx + 1]? = some a ∧ a ≠ s.cfg.laUnregistered ∧
      t = probeStaged a { s with regs := { s.regs with candIdx := s.regs.candIdx + 1 } }) := by
  unfold stepIfAllocating at h
  by_cases ha : s.regs.allocating = true
  · rw [if_pos ha] at h
    cases b
    · simp only [allocStep, allocClaim, Bool.false_eq_true, if_false] at h
      split at h <;> cases h
      next c hc => exact .inr (.inl ⟨ha, rfl, c, hc, rfl⟩)
    · simp only [allocStep, if_true] at h
      cases hc : (candidatesFor s)[s.regs.candIdx + 1]? with
      | none =>
        simp only [allocAdvance, candidatesFor] at h hc
        rw [hc] at h
        cases h
      | some a =>
        rw [allocAdvance_eq _ hc] at h
        by_cases he : a = s.cfg.laUnregistered
        · rw [if_pos he] at h
          cases h
          exact .inr (.inr (.inl ⟨ha, rfl, a, rfl, he, rfl⟩))
        · rw [if_neg he] at h
          cases (withRoom_eq_next.1 h).2
          exact .inr (.inr (.inr ⟨ha, rfl, a, rfl, he, rfl⟩))
  · rw [if_neg ha] at h
    cases h
    exact .inl ⟨by simpa using ha, rfl⟩

/-- `FailAttempt`: a one-byte frame is reported and steps the allocator, a longer one is retried or reported (R108). -/
theorem failAttempt_next (h : failAttempt s = .next t) :
    (s.regs.txByteCount = 1 ∧ stepIfAllocating false (dropFrame
      (emit (.txComplete (bytesOf s.regs.txBuf s.regs.txByteCount) s.regs.txByteCount false)
        (note .txProbeNak (markInitiator s)))) = .next t) ∨
    (s.regs.txByteCount ≠ 1 ∧ s.regs.retry < s.cfg.maxRetries ∧
      t = note .txNakRetry { s with regs := { s.regs with lastInitiator := true, retry := s.regs.retry + 1 } }) ∨
    (s.regs.txByteCount ≠ 1 ∧ s.cfg.maxRetries ≤ s.regs.retry ∧ t = dropFrame
      (emit (.txComplete (bytesOf s.regs.txBuf s.regs.txByteCount) s.regs.txByteCount false)
        (note .txNakFinal (markInitiator s)))) := by
  simp only [failAttempt] at h
  split_ifs at h with h1 h2
  · obtain ⟨u, hu, ht⟩ := andThen_eq_next.1 h
    cases reportAndDrop_next hu
    exact .inl ⟨h1, ht⟩
  · cases h
    exact .inr (.inl ⟨h1, h2, rfl⟩)
  · exact .inr (.inr ⟨h1, Nat.le_of_not_lt h2, reportAndDrop_next h⟩)

/-- `Succeed`: the frame is reported and dropped, and the allocator steps (R109). -/
theorem succeed_next (h : succeed s = .next t) :
    stepIfAllocating true (dropFrame
      (emit (.txComplete (bytesOf s.regs.txBuf s.regs.txByteCount) s.regs.txByteCount true) (markInitiator s))) = .next t := by
  obtain ⟨u, hu, ht⟩ := andThen_eq_next.1 (h : andThen (reportAndDrop true (markInitiator s)) _ = _)
  cases reportAndDrop_next hu
  exact ht

/-- At the sample point the acknowledge test resolves the byte (R105). -/
theorem execArmXmitAckTest_eq (h : s.arm.elapsed = true) (h0 : 0 < s.cfg.cap) :
    execArmXmitAckTest s = resolveByte s := by rw [execArmXmitAckTest, if_pos h, withRoom_eq _ h0]

/-- The acknowledge test: before the sample nothing, then the next block, a failure or a success (R105). -/
theorem execArmXmitAckTest_next (h : execArmXmitAckTest s = .next t) :
    (s.arm.elapsed = false ∧ t = s) ∨
    (s.arm.elapsed = true ∧ acked s s.arm.line = true ∧ s.regs.txBitIndex ≠ 8 * s.regs.txByteCount ∧ t = nextBlock s) ∨
    (s.arm.elapsed = true ∧ acked s s.arm.line = false ∧ ∃ u, failAttempt s = .next u ∧ t = toIdle u) ∨
    (s.arm.elapsed = true ∧ acked s s.arm.line = true ∧ s.regs.txBitIndex = 8 * s.regs.txByteCount ∧
      ∃ u, succeed s = .next u ∧ t = toIdle u) := by
  by_cases he : s.arm.elapsed = true
  case neg =>
    rw [execArmXmitAckTest, if_neg he] at h
    cases h
    exact .inl ⟨by simpa using he, rfl⟩
  rw [execArmXmitAckTest, if_pos he, withRoom_eq_next] at h
  replace h := h.2
  simp only [resolveByte] at h
  split_ifs at h with ha hb
  · obtain ⟨u, hu, ht⟩ := andThen_eq_next.1 h
    cases ht
    exact .inr (.inr (.inl ⟨he, by simpa using ha, u, hu, rfl⟩))
  · obtain ⟨u, hu, ht⟩ := andThen_eq_next.1 h
    cases ht
    exact .inr (.inr (.inr ⟨he, by simpa using ha, hb, u, hu, rfl⟩))
  · cases h
    exact .inr (.inl ⟨he, by simpa using ha, hb, rfl⟩)

theorem sendDataBit_next (h : sendDataBit s = .next t) : t = goto .xmitDatabit1
    (some (lowFor s.cfg (lineBit (s.regs.txBuf.read (s.regs.txBitIndex >>> 3)) s.regs.txBitIndex))) s := by
  simp only [sendDataBit, withTxBit, withByte_eq] at h
  split at h <;> cases h
  rfl

/-- `AllocStart`: nothing, or the probe of the first candidate (R112). -/
theorem allocStart_cases (s : State) : allocStart s = .next s ∨
    ∃ a rest, candidatesFor s = a :: rest ∧ s.regs.physAddr ≠ s.cfg.physBroadcast ∧ s.regs.monitor = false ∧
      allocStart s = stageProbe a { s with regs := { s.regs with allocating := true, candIdx := 0 } } := by
  unfold allocStart
  split
  · exact .inl rfl
  · next a rest h =>
    split
    · next hp => exact .inr ⟨a, rest, h, hp.1, hp.2, rfl⟩
    · exact .inl rfl

/-! ### The RUN step -/

/-- What a RUN that answers a next state did: nothing, or one arm, run after no change to the state or after the record of a
line change, or the `IDLE` arm, run after an abort (R65 to R73). -/
theorem run_next {l : Level} (h : exec (.run l) s = .next t) : s.regs.initialized = true ∧
    (t = s ∨ ∃ (u : State) (p q : Phase), s.regs.st = p.code ∧ u.regs.st = q.code ∧ exec q.arm u = .next t ∧
      u.cfg = s.cfg ∧ u.inbox = s.inbox ∧ u.op = s.op ∧ u.arm.now = portNow s ∧ u.arm.line = l ∧
      ((q = p ∧ u.out = s.out ∧ u.regs = s.regs) ∨
       (q = p ∧ u.out = s.out ∧ u.regs = { s.regs with lastLineState := l, lineSetTime := portNow s }) ∨
       (q = .idle ∧ arbitrated p = true ∧ u.out = (abort s).out ∧ u.regs = { s.regs with
          lastLineState := l, lineSetTime := portNow s, st := Phase.code .idle, waitTime := some 0, lineOut := .high }))) := by
  obtain ⟨hi, p, hp⟩ := execRun_next s t h
  refine ⟨hi, ?_⟩
  simp only [exec, execRun_eq s l hi hp] at h
  split at h
  · cases h
    exact .inl rfl
  · right
    by_cases hl : l = s.regs.lastLineState
    · have hd : detect l (portNow s) s = s := by
        rw [hl]
        exact detect_same ..
      have e : (prologue l (portNow s) s).regs = s.regs := by simp [prologue, hd]
      rw [dispatchArm_eq_exec (p := p) (h := by rw [e]; exact hp)] at h
      exact ⟨_, p, p, hp, by rw [e]; exact hp, h, by simp [prologue], by simp [prologue], by simp [prologue],
        by simp [prologue], by simp [prologue], .inl ⟨rfl, by simp [prologue, hd], e⟩⟩
    · have hd := detect_changed s (portNow s) hl
      rw [inArbStates_eq s hp] at hd
      by_cases ha : arbitrated p = true
      · rw [if_pos ha] at hd
        have e : (prologue l (portNow s) s).regs = { s.regs with
            lastLineState := l, lineSetTime := portNow s, st := Phase.code .idle, waitTime := some 0, lineOut := .high } := by
          simp [prologue, hd]
        have eo : (prologue l (portNow s) s).out = (abort s).out := by
          simp [prologue, hd]
          rfl
        rw [dispatchArm_eq_exec (p := .idle) (h := by rw [e])] at h
        exact ⟨_, p, .idle, hp, by rw [e], h, by simp [prologue], by simp [prologue], by simp [prologue],
          by simp [prologue], by simp [prologue], .inr (.inr ⟨rfl, ha, eo, e⟩)⟩
      · rw [if_neg ha] at hd
        have e : (prologue l (portNow s) s).regs = { s.regs with lastLineState := l, lineSetTime := portNow s } := by
          simp [prologue, hd]
        rw [dispatchArm_eq_exec (p := p) (h := by rw [e]; exact hp)] at h
        exact ⟨_, p, p, hp, by rw [e]; exact hp, h, by simp [prologue], by simp [prologue], by simp [prologue],
          by simp [prologue], by simp [prologue], .inr (.inl ⟨rfl, by simp [prologue, hd], e⟩)⟩

/-- A command word decodes to an INIT, an XMIT or a RUN (R51). -/
theorem decodeCommand_cases {cw : BitVec 32} {i : Instr} (h : decodeCommand cw = .accept i) :
    (cw.getLsbD 1 = false ∧ cw.getLsbD 0 = true ∧ ∃ pa d p m, i = .init pa d p m) ∨
    (cw.getLsbD 1 = true ∧ cw.getLsbD 0 = false ∧ ∃ a n, i = .xmit a n) ∨
    (cw.getLsbD 1 = true ∧ cw.getLsbD 0 = true ∧ ∃ l, i = .run l) := by
  unfold decodeCommand decodeInit decodeXmit decodeRun at h
  split at h
  · cases h
  · next h1 h0 =>
    split at h <;> cases h
    exact .inl ⟨h1, h0, _, _, _, _, rfl⟩
  · next h1 h0 =>
    split at h <;> cases h
    exact .inr (.inl ⟨h1, h0, _, _, rfl⟩)
  · next h1 h0 =>
    split at h <;> cases h
    exact .inr (.inr ⟨h1, h0, _, rfl⟩)

/-- A bit of a placed field (R9). -/
theorem placeField_getLsbD {n : Nat} (v : BitVec n) (lo i : Nat) :
    (placeField v lo).getLsbD i = (decide (i < 32) && decide (lo ≤ i) && v.getLsbD (i - lo)) := by
  simp only [placeField, BitVec.getLsbD_shiftLeft, BitVec.getLsbD_setWidth]
  by_cases h : i < 32
  · by_cases h2 : lo ≤ i
    · simp [h, h2, Nat.not_lt.2 h2, show i - lo < 32 by omega]
    · simp [h2, Nat.lt_of_not_le h2]
  · simp [h]

end Sys2Proof.Machine
end

