-- ==== Sys2Proof/Laws/PerInstr.lean ====
section
/-! SUPPORT. Per instruction: the word the encoder writes lies in the row of spec/opcode_table.json the instruction stands for. The rows'
masks and patterns are written out here from the table, so that they do not follow the encoder. -/

namespace Sys2Proof.Laws

open Sys2Proof Sys2Proof.Machine

/-- A row of the opcode table: which bits it fixes, and to what. -/
structure TableRow where
  mask    : BitVec 32
  pattern : BitVec 32
  deriving DecidableEq, Repr

/-- The row of an instruction. -/
def tableRow : Instr → TableRow
  | .init _ _ _ _ => { mask := 0x0000FF83, pattern := 0x00000001 }
  | .xmit _ _ => { mask := 0xFFFFF803, pattern := 0x00000002 }
  | .run _ => { mask := 0xFFFFFFFB, pattern := 0x00000003 }
  | .armIdle => { mask := 0x1F, pattern := 0x00 }
  | .armRcvStartbit1 => { mask := 0x1F, pattern := 0x01 }
  | .armRcvStartbit2 => { mask := 0x1F, pattern := 0x02 }
  | .armRcvDatabit1 => { mask := 0x1F, pattern := 0x03 }
  | .armRcvDatabit2 => { mask := 0x1F, pattern := 0x04 }
  | .armRcvEom1 => { mask := 0x1F, pattern := 0x05 }
  | .armRcvEom2 => { mask := 0x1F, pattern := 0x06 }
  | .armRcvAckSent => { mask := 0x1F, pattern := 0x07 }
  | .armRcvAck1 => { mask := 0x1F, pattern := 0x08 }
  | .armRcvAck2 => { mask := 0x1F, pattern := 0x09 }
  | .armRcvLineerror => { mask := 0x1F, pattern := 0x0A }
  | .armXmitWait => { mask := 0x1F, pattern := 0x0B }
  | .armXmitStartbit1 => { mask := 0x1F, pattern := 0x0C }
  | .armXmitStartbit2 => { mask := 0x1F, pattern := 0x0D }
  | .armXmitDatabit1 => { mask := 0x1F, pattern := 0x0E }
  | .armXmitDatabit2 => { mask := 0x1F, pattern := 0x0F }
  | .armXmitEom1 => { mask := 0x1F, pattern := 0x10 }
  | .armXmitEom2 => { mask := 0x1F, pattern := 0x11 }
  | .armXmitAck1 => { mask := 0x1F, pattern := 0x12 }
  | .armXmitAckTest => { mask := 0x1F, pattern := 0x13 }
  | .armXmitAckWait => { mask := 0x1F, pattern := 0x14 }
  | .armXmitAck2 => { mask := 0x1F, pattern := 0x15 }

/-- The bits of a word, a state code in the low five. -/
def wordBits : MachineWord → BitVec 32
  | .command cw => cw
  | .stateCode c => c.setWidth 32

/-- The encoded word agrees with its row on every bit the row fixes. -/
def TableMatch.Statement (i : Instr) : Prop := wordBits (encode i) &&& (tableRow i).mask = (tableRow i).pattern

/-- A word agrees with a row when it agrees bit by bit. -/
theorem and_eq_of_bits {w m p : BitVec 32} (h : ∀ k < 32, (w.getLsbD k && m.getLsbD k) = p.getLsbD k) : w &&& m = p :=
  BitVec.eq_of_getLsbD_eq fun k hk => by rw [BitVec.getLsbD_and, h k hk]

theorem TableMatch.init (pa : BitVec 16) (dtype : BitVec 3) (prom mon : Bool) :
    TableMatch.Statement (.init pa dtype prom mon) := by
  refine and_eq_of_bits fun k hk => ?_
  simp only [wordBits, encode, encodeInit, tableRow, BitVec.getLsbD_or, placeField_getLsbD]
  interval_cases k <;> simp

theorem TableMatch.xmit (target : LogAddr) (len : BitVec 5) : TableMatch.Statement (.xmit target len) := by
  refine and_eq_of_bits fun k hk => ?_
  simp only [wordBits, encode, encodeXmit, tableRow, BitVec.getLsbD_or, placeField_getLsbD]
  interval_cases k <;> simp

theorem TableMatch.run (line : Level) : TableMatch.Statement (.run line) := by
  cases line <;> rfl

theorem TableMatch.armIdle : TableMatch.Statement .armIdle := rfl
theorem TableMatch.armRcvStartbit1 : TableMatch.Statement .armRcvStartbit1 := rfl
theorem TableMatch.armRcvStartbit2 : TableMatch.Statement .armRcvStartbit2 := rfl
theorem TableMatch.armRcvDatabit1 : TableMatch.Statement .armRcvDatabit1 := rfl
theorem TableMatch.armRcvDatabit2 : TableMatch.Statement .armRcvDatabit2 := rfl
theorem TableMatch.armRcvEom1 : TableMatch.Statement .armRcvEom1 := rfl
theorem TableMatch.armRcvEom2 : TableMatch.Statement .armRcvEom2 := rfl
theorem TableMatch.armRcvAckSent : TableMatch.Statement .armRcvAckSent := rfl
theorem TableMatch.armRcvAck1 : TableMatch.Statement .armRcvAck1 := rfl
theorem TableMatch.armRcvAck2 : TableMatch.Statement .armRcvAck2 := rfl
theorem TableMatch.armRcvLineerror : TableMatch.Statement .armRcvLineerror := rfl
theorem TableMatch.armXmitWait : TableMatch.Statement .armXmitWait := rfl
theorem TableMatch.armXmitStartbit1 : TableMatch.Statement .armXmitStartbit1 := rfl
theorem TableMatch.armXmitStartbit2 : TableMatch.Statement .armXmitStartbit2 := rfl
theorem TableMatch.armXmitDatabit1 : TableMatch.Statement .armXmitDatabit1 := rfl
theorem TableMatch.armXmitDatabit2 : TableMatch.Statement .armXmitDatabit2 := rfl
theorem TableMatch.armXmitEom1 : TableMatch.Statement .armXmitEom1 := rfl
theorem TableMatch.armXmitEom2 : TableMatch.Statement .armXmitEom2 := rfl
theorem TableMatch.armXmitAck1 : TableMatch.Statement .armXmitAck1 := rfl
theorem TableMatch.armXmitAckTest : TableMatch.Statement .armXmitAckTest := rfl
theorem TableMatch.armXmitAckWait : TableMatch.Statement .armXmitAckWait := rfl
theorem TableMatch.armXmitAck2 : TableMatch.Statement .armXmitAck2 := rfl

end Sys2Proof.Laws
end

