-- ==== Sys2Proof/Tests/Slice0.lean ====
section
/-! SUPPORT. The model's own tests. Expected values come from the spec: spec/30_encoding.md, and the vectors of
spec/95_test_vectors.md, named in each test's comment. After them stand the witnesses: for every statement with hypotheses, states
and operands that meet them, clause by clause and at the ends of the ranges. -/

namespace Sys2Proof.Tests

open Sys2Proof Sys2Proof.Machine

/-! ### States to test on -/

/-- An initialised block, all else at reset values. -/
def live : Regs := { Regs.reset with initialized := true }

/-- The registers `r` in state `p`, with a running budget. -/
def inPhase (p : Phase) (budget : Option Nat) (r : Regs) : Regs := { r with st := p.code, waitTime := budget }

/-- A block that has claimed logical address 5. -/
def claimed5 : Regs := { live with physAddr := 0x2000, devType := 5, la := some 5 }

/-- A block allocating address 5: the registers after V-I1. -/
def probing5 : Regs :=
  { live with physAddr := 0x2000, devType := 5, allocating := true, txBuf := [(0, 0x55)], txByteCount := 1 }

/-- A claimed block with the two-byte frame 5F 36 pending (V-X1). -/
def pending5 : Regs := { claimed5 with txBuf := [(0, 0x5F), (1, 0x36)], txByteCount := 2 }

/-- A claimed block with the two-byte frame 50 36 to a single device pending. -/
def unicast5 : Regs := { claimed5 with txBuf := [(0, 0x50), (1, 0x36)], txByteCount := 2 }

def stateOf (r : Regs) : State := { State.reset with regs := r }

/-- A state at an arm, with what the RUN step hands it. -/
def atArm (changed elapsed : Bool) (line : Level) (now : Nat) (r : Regs) : State :=
  { stateOf r with arm := { now := now, line := line, changed := changed, elapsed := elapsed } }

/-- One RUN of a block with the registers `r`. -/
def runIn (r : Regs) (line : Level) (now : Nat) : Result := performOp (runOp line now) (stateOf r)

def regsAfter (r : Result) : Option Regs := (nextOf r).map State.regs

def eventsAfter (r : Result) : Option (List Event) := (nextOf r).map fun t => t.out.events

/-- State, budget and trace after one operation. -/
structure End where
  st       : StateCode
  waitTime : Option Nat
  trace    : List Cause
  deriving DecidableEq, Repr

def endAfter (r : Result) : Option End := (nextOf r).map fun t => { st := t.regs.st, waitTime := t.regs.waitTime, trace := t.out.trace }

/-- The duration an arm measures. -/
def width (s : State) : Nat := timeDiff s.cfg s.arm.now s.regs.bitStartTime

/-! ### Well-formedness: each check refuses an ill-formed term -/

theorem test_default_config_ok : Config.default.ok = true := by decide

theorem test_okA_refuses : ({ Config.default with bitLow0 := 1200 } : Config).okA = false := by decide

theorem test_okB_refuses : ({ Config.default with startTotal := 3550 } : Config).okB = false := by decide

theorem test_okC_refuses : ({ Config.default with ackSample := 850 } : Config).okC = false := by decide

theorem test_okD_refuses : ({ Config.default with lineErrorLow := 1800 } : Config).okD = false := by decide

theorem test_okE_refuses : ({ Config.default with timeWidth := 14 } : Config).okE = false := by decide

/-- A list without the unregistered address, one with it twice, and one that is nothing else. -/
theorem test_okF_refuses : Config.default.candidateListOk [0x4, 0x8] = false ∧
    Config.default.candidateListOk [0xF, 0xF] = false ∧ Config.default.candidateListOk [0xF] = false ∧
    ({ Config.default with candidates := [[0x4]] } : Config).okF = false := by decide

/-- R7: MAX_PAYLOAD is CAP - 1. -/
theorem test_okPayload_refuses : ({ Config.default with maxPayload := 16 } : Config).okPayload = false ∧
    ({ Config.default with cap := 0, maxPayload := 0 } : Config).okPayload = false ∧
    (({ cap := 8 } : Config).maxPayload, ({ cap := 8 } : Config).ok) = (7, true) := by decide

theorem test_ok_refuses : ({ Config.default with ackSample := 850 } : Config).ok = false := by decide

theorem test_arms_are_no_commands : Instr.armIdle.isCommand = false ∧ Instr.armXmitAck2.isCommand = false ∧
    (Instr.run .high).isCommand = true := by decide

theorem test_now_width : (runOp .high (2 ^ 32 - 1)).fits Config.default = true ∧
    (runOp .high (2 ^ 32)).fits Config.default = false := by decide

/-! ### Decoding: words of spec/30_encoding.md and V-E1 to V-E14 -/

theorem test_decode_init : decodeTableWord 32 0x20000015 = some (.init 0x2000 5 false false) ∧
    decodeTableWord 32 0x10000011 = some (.init 0x1000 4 false false) ∧
    decodeTableWord 32 0x00000001 = some (.init 0x0000 0 false false) ∧
    decodeTableWord 32 0x20000035 = some (.init 0x2000 5 true false) ∧
    decodeTableWord 32 0x10000051 = some (.init 0x1000 4 false true) := by decide

theorem test_decode_xmit : decodeTableWord 32 0x00000042 = some (.xmit 0 1) ∧ decodeTableWord 32 0x0000004E = some (.xmit 3 1) ∧
    decodeTableWord 32 0x0000007E = some (.xmit 15 1) ∧ decodeTableWord 32 0x00000016 = some (.xmit 5 0) ∧
    decodeTableWord 32 0x00000412 = some (.xmit 4 16) := by decide

theorem test_decode_run : decodeTableWord 32 0x00000007 = some (.run .high) ∧
    decodeTableWord 32 0x00000003 = some (.run .low) := by decide

/-- V-E13, V-E14. -/
theorem test_decode_reserved : decodeCommand 0x00000000 = .reservedOpcode ∧ decodeCommand 0x20000014 = .reservedOpcode ∧
    decodeCommand 0x20000095 = .reservedBits ∧ decodeCommand 0x0000000F = .reservedBits ∧
    decodeCommand 0x00000842 = .reservedBits := by decide

/-- The table of R56, code by code. -/
theorem test_decode_receive_codes : (List.range 11).map (decodeTableWord 8) = [some .armIdle, some .armRcvStartbit1,
    some .armRcvStartbit2, some .armRcvDatabit1, some .armRcvDatabit2, some .armRcvEom1, some .armRcvEom2,
    some .armRcvAckSent, some .armRcvAck1, some .armRcvAck2, some .armRcvLineerror] := by decide

theorem test_decode_transmit_codes : (List.range 11).map (fun i => decodeTableWord 8 (11 + i)) = [some .armXmitWait,
    some .armXmitStartbit1, some .armXmitStartbit2, some .armXmitDatabit1, some .armXmitDatabit2, some .armXmitEom1,
    some .armXmitEom2, some .armXmitAck1, some .armXmitAckTest, some .armXmitAckWait, some .armXmitAck2] := by decide

theorem test_decode_reserved_codes : (List.range 10).map (fun i => decodeTableWord 8 (22 + i)) = List.replicate 10 none := by
  decide

theorem test_encode_words : encode (.init 0x2000 5 true false) = .command 0x20000035 ∧
    encode (.xmit 4 16) = .command 0x00000412 ∧ encode (.run .low) = .command 0x00000003 ∧
    encode .armXmitAck2 = .stateCode 21 := by decide

/-- Every row of the opcode table runs as the first instruction after reset. -/
theorem test_fetch_commands : ∀ w ∈ [0x00000001, 0x00000002, 0x00000003],
    (nextOf (step (State.reset.withFetchWord 32 w))).isSome = true := by decide

theorem test_fetch_arms : ∀ w ∈ List.range 22, (nextOf (step (State.reset.withFetchWord 8 w))).isSome = true := by decide

/-! ### Buffers -/

/-- A write of the byte an unlisted index reads as removes the entry; writes out of order keep the form. -/
theorem test_memory_canonical : Memory.write (Memory.write [] 3 0x11) 1 0x22 = [(1, 0x22), (3, 0x11)] ∧
    Memory.write [(1, 0x22), (3, 0x11)] 1 0x00 = [(3, 0x11)] ∧ Memory.wf [(1, 0x22), (3, 0x11)] = true ∧
    Memory.wf [(3, 0x11), (1, 0x22)] = false ∧ Memory.wf [(0, 0x00)] = false := by decide

/-- R39. -/
theorem test_memory_bounds : memRead Config.default [(15, 0x7F)] 15 = some 0x7F ∧ memRead Config.default [] 16 = none ∧
    (readBytes Config.default [(0, 0x05), (1, 0x44)] 2) = some [0x05, 0x44] ∧ readBytes Config.default [] 17 = none := by decide

/-! ### Host operations -/

/-- V-I1. -/
theorem test_init : regsAfter (performOp (bareOp 0x20000015 0) State.reset) = some probing5 ∧
    eventsAfter (performOp (bareOp 0x20000015 0) State.reset) = some [] := by decide

/-- V-AL3, V-AL4, V-AL5: no probe for an empty list, the broadcast address, or a monitor. -/
theorem test_init_no_probe :
    (regsAfter (performOp (bareOp 0x10000009 0) State.reset)).map (fun r => (r.allocating, r.txByteCount)) = some (false, 0) ∧
    (regsAfter (performOp (bareOp 0xFFFF0011 0) State.reset)).map (fun r => (r.allocating, r.txByteCount)) = some (false, 0) ∧
    (regsAfter (performOp (bareOp 0x10000051 0) State.reset)).map (fun r => (r.allocating, r.txByteCount)) =
      some (false, 0) := by decide

/-- V-I3, V-I4, R55, R44, R8. -/
theorem test_refusals : refusalOf (performOp (bareOp 0x10000011 0) (stateOf probing5)) = some .secondInit ∧
    refusalOf (performOp (bareOp 0x00000007 0) State.reset) = some .runBeforeInit ∧
    refusalOf (performOp (bareOp 0x20000014 0) State.reset) = some .reservedCmd ∧
    refusalOf (performOp { bareOp 0x00000007 0 with overlap := true } (stateOf live)) = some .overlap ∧
    refusalOf (performOp (bareOp 0x00000001 0) (State.resetWith { Config.default with timeWidth := 14 })) = some .badParams ∧
    refusalOf (performOp (bareOp 0x00000007 0) (stateOf { live with st := 22 })) = some .reservedState := by decide

/-- V-X1, V-X6. -/
theorem test_xmit : regsAfter (performOp (xmitOp 15 [0x36]) (stateOf claimed5)) = some pending5 ∧
    (nextOf (performOp (xmitOp 15 [0x36]) (stateOf claimed5))).map (fun t => t.out.ok) = some (some true) ∧
    (regsAfter (performOp (xmitOp 4 (List.replicate 15 0x01)) (stateOf claimed5))).map
      (fun r => (r.txByteCount, r.txBuf.read 0, r.txBuf.read 15)) = some (16, 0x54, 0x01) := by decide

/-- V-I5, V-X2, V-X3, V-X5. -/
theorem test_xmit_rejected :
    (nextOf (performOp (bareOp 0x00000042 0) State.reset)).map (fun t => (t.regs, t.out.ok, t.out.trace)) =
      some (Regs.reset, some false, [.xmitNoLa]) ∧
    (nextOf (performOp (xmitOp 4 [0x01]) (stateOf pending5))).map (fun t => (t.regs, t.out.ok, t.out.trace)) =
      some (pending5, some false, [.xmitPending]) ∧
    (nextOf (performOp (bareOp 0x00000412 0) (stateOf claimed5))).map (fun t => (t.regs, t.out.ok, t.out.trace)) =
      some (claimed5, some false, [.xmitTooLong]) ∧
    (nextOf (performOp (bareOp 0x00000042 0) (stateOf { live with monitor := true }))).map (fun t => (t.out.ok, t.out.trace)) =
      some (some false, [.xmitNoLa]) := by decide

/-- CAP and MAX_PAYLOAD are read from the parameters (R7): with CAP = 8, XMIT takes 7 bytes and not 8 (R121), and the eighth byte
received without EOM forces the negative acknowledgement (R84). -/
theorem test_cap_is_a_parameter : let s := { stateOf claimed5 with cfg := { cap := 8 } }
    (nextOf (performOp (xmitOp 4 (List.replicate 7 0x01)) s)).map (fun t => (t.out.ok, t.regs.txByteCount)) = some (some true, 8) ∧
    (nextOf (performOp (xmitOp 4 (List.replicate 8 0x01)) s)).map (fun t => (t.out.ok, t.out.trace)) =
      some (some false, [.xmitTooLong]) ∧
    (nextOf (exec .armRcvEom1 { s with
        regs := { s.regs with rxBitCount := 64 }, arm := { now := 1500, line := .high, changed := true, elapsed := false } })).map
      (fun t => (t.regs.rxNak, t.out.trace)) = some (true, [.rxOverflow]) := by decide

/-! ### The RUN prologue -/

/-- V-RS1, V-RS2: the settle window after a rise, masked at 249 and open at 250. -/
theorem test_settle_rise : regsAfter (runIn { claimed5 with lineSetTime := 1000 } .low 1249) =
      some { claimed5 with lineSetTime := 1000 } ∧
    (regsAfter (runIn { claimed5 with lineSetTime := 1000 } .low 1250)).map (fun r => (r.st, r.lineSetTime, r.bitStartTime)) =
      some (1, 1250, 1250) := by decide

/-- V-RS3: the settle window after a fall, masked at 49 and open at 50. -/
theorem test_settle_fall :
    (regsAfter (runIn { claimed5 with lineSetTime := 1000, lastLineState := .low } .high 1049)).map Regs.lastLineState =
      some .low ∧
    (regsAfter (runIn { claimed5 with lineSetTime := 1000, lastLineState := .low } .high 1050)).map Regs.lastLineState =
      some .high := by decide

/-- V-RS4, V-RS6. -/
theorem test_budget : elapsedAt (stateOf { live with bitStartTime := 0xFFFFFF00, waitTime := some 600 }) 0x158 = true ∧
    elapsedAt (stateOf { live with bitStartTime := 0xFFFFFF00, waitTime := some 600 }) 0x157 = false ∧
    elapsedAt (stateOf { live with waitTime := none }) 0xFFFFFFFF = false := by decide

/-- V-RS5: a quiet RUN. -/
theorem test_quiet : regsAfter (runIn (inPhase .xmitDatabit2 (some 2400) { unicast5 with lineSetTime := 600 }) .high 2000) =
      some (inPhase .xmitDatabit2 (some 2400) { unicast5 with lineSetTime := 600 }) := by decide

/-- V-RS7: arbitration lost in a high phase; the frame stays pending and a receive starts in the same RUN. -/
theorem test_arbitration :
    (nextOf (runIn (inPhase .xmitDatabit2 (some 2400) { unicast5 with lineSetTime := 600, retry := 2 }) .low 880)).map
      (fun t => (t.regs.st, t.regs.bitStartTime, t.regs.waitTime, t.regs.txByteCount, t.regs.retry)) =
      some (1, 880, some 4000, 2, 2) := by decide

/-- V-RS8: a rise while the block holds the line low releases it. -/
theorem test_arbitration_release :
    (nextOf (runIn (inPhase .xmitStartbit1 (some 3700) { unicast5 with lineOut := .low, lastLineState := .low }) .high 100)).map
      (fun t => (t.regs.st, t.regs.lineOut, t.out.events)) = some (11, .high, [.setLine .high]) := by decide

/-- V-RS9: a change in the acknowledge test is only recorded. -/
theorem test_ack_test_change : regsAfter (runIn (inPhase .xmitAckTest (some 1050) { unicast5 with lineSetTime := 600 }) .low 900) =
      some (inPhase .xmitAckTest (some 1050) { unicast5 with lineSetTime := 900, lastLineState := .low }) := by decide

/-! ### The receive arms -/

/-- The classifier table of section 2.5. -/
theorem test_classify : [299, 300, 600, 900, 901, 1199, 1200, 1500, 1800, 1801, 2400].map (classify Config.default) =
    [(true, true), (true, false), (true, false), (true, false), (true, true), (true, true), (false, false), (false, false),
     (false, false), (true, true), (true, true)] := by decide

/-- The acknowledge drive table of section 2.5: monitor, follower, broadcast, nak. -/
theorem test_ack_drive : ∀ m f b n : Bool, ackDrive (stateOf { live with
      monitor := m, rxFollower := f, rxBroadcast := b, rxNak := n }) = (!m && ((f && !n) || (b && n))) := by decide

/-- Section 2.5: bits 0,1,0,0,0,0,0,0 give 40, and 0,0,0,0,0,1,0,1 give 05. -/
theorem test_shift_in : ([false, true, false, false, false, false, false, false].foldl shiftByte 0) = 0x40 ∧
    ([false, false, false, false, false, true, false, true].foldl shiftByte 0) = 0x05 := by decide

/-- V-TX4, V-TX5, V-TX6, V-TX7. -/
theorem test_idle : (endAfter (runIn { unicast5 with retry := 1 } .high 280)) = some ⟨11, some 7200, []⟩ ∧
    (endAfter (runIn { unicast5 with lastInitiator := true } .high 280)) = some ⟨11, some 16800, []⟩ ∧
    (endAfter (runIn unicast5 .high 280)) = some ⟨11, some 12000, []⟩ ∧
    (endAfter (runIn { unicast5 with lastLineState := .low } .low 280)) = some ⟨0, some 0, []⟩ := by decide

def regsStartbit1 : Regs :=
  inPhase .rcvStartbit1 (some 4000) { claimed5 with
    bitStartTime := 10000, lineSetTime := 10000, lastLineState := .low }

/-- V-SB1 to V-SB4, the fall at 10000. -/
theorem test_startbit1 :
    endAfter (runIn regsStartbit1 .high 13399) = some ⟨0, some 0, [.rxStartLowRange]⟩ ∧
    endAfter (runIn regsStartbit1 .high 13400) = some ⟨2, some 4950, []⟩ ∧ endAfter (runIn regsStartbit1 .high 14000) = some ⟨2, some 4950, []⟩ ∧
    endAfter (runIn regsStartbit1 .high 14001) = some ⟨0, some 0, [.rxStartLowRange]⟩ ∧
    endAfter (runIn regsStartbit1 .low 14000) = some ⟨0, some 0, [.rxStartLowTimeout]⟩ := by decide

def regsStartbit2 : Regs :=
  inPhase .rcvStartbit2 (some 4950) { claimed5 with
    bitStartTime := 10000, lineSetTime := 13720 }

/-- V-SB5, V-SB6, the fall at 10000 and the rise at 13720. -/
theorem test_startbit2 :
    endAfter (runIn regsStartbit2 .low 14049) = some ⟨0, some 0, [.rxStartTotalRange]⟩ ∧
    endAfter (runIn regsStartbit2 .low 14050) = some ⟨3, some 2850, []⟩ ∧ endAfter (runIn regsStartbit2 .low 14950) = some ⟨3, some 2850, []⟩ ∧
    endAfter (runIn regsStartbit2 .low 14951) = some ⟨0, some 0, [.rxStartTotalRange]⟩ ∧
    endAfter (runIn regsStartbit2 .high 14950) = some ⟨0, some 0, [.rxStartTotalTimeout]⟩ := by decide

def regsDatabit1 : Regs :=
  inPhase .rcvDatabit1 (some 2850) { claimed5 with
    bitStartTime := 14520, lineSetTime := 14520, lastLineState := .low }

/-- R82's example, and V-RX19's line error. -/
theorem test_databit1 :
    (regsAfter (runIn regsDatabit1 .high 15120)).map (fun q => (q.st, q.waitTime, q.rxBuf.read 0, q.rxBitCount, q.rxNak)) =
      some (4, some 2850, 0x01, 1, false) ∧
    endAfter (runIn regsDatabit1 .low 17370) = some ⟨10, none, [.rxLineError]⟩ := by decide

def regsDatabit2 : Regs :=
  inPhase .rcvDatabit2 (some 2850) { claimed5 with
    bitStartTime := 31320, lineSetTime := 31920, rxBitCount := 8 }

/-- R83's example, and the end of V-RX18. -/
theorem test_databit2 :
    (regsAfter (runIn regsDatabit2 .low 33720)).map (fun q => (q.st, q.bitStartTime, q.waitTime)) = some (5, 33720, some 2850) ∧
    (regsAfter (runIn { regsDatabit2 with rxBitCount := 7 } .low 33720)).map Regs.st = some 3 ∧
    endAfter (runIn regsDatabit2 .high 34170) = some ⟨0, some 0, [.rxHighTimeout]⟩ := by decide

def regsEom1 : Regs :=
  inPhase .rcvEom1 (some 2850) { claimed5 with
    la := some 0, bitStartTime := 33720, lineSetTime := 33720, lastLineState := .low, rxBuf := [(0, 0x40)],
    rxBitCount := 8 }

/-- R84's example, and the overflow of V-RX14. -/
theorem test_eom1 :
    (regsAfter (runIn regsEom1 .high 34340)).map (fun q => (q.st, q.rxEom, q.rxFollower, q.rxBroadcast, q.rxNak)) =
      some (6, true, true, false, false) ∧
    (nextOf (runIn { regsEom1 with rxBitCount := 128 } .high 35220)).map (fun t => (t.regs.rxEom, t.regs.rxNak, t.out.trace)) =
      some (false, true, [.rxOverflow]) := by decide

def regsEom2 : Regs :=
  inPhase .rcvEom2 (some 2850) { claimed5 with
    bitStartTime := 33720, lineSetTime := 34320, rxBitCount := 8, rxFollower := true }

/-- R85's example, and a monitor, which never drives. -/
theorem test_eom2 :
    (nextOf (runIn regsEom2 .low 36120)).map (fun t => (t.regs.st, t.regs.waitTime, t.regs.bitStartTime, t.regs.lineOut, t.out.events)) =
      some (7, some 1500, 36120, .low, [.setLine .low]) ∧
    (nextOf (runIn { regsEom2 with monitor := true } .low 36120)).map (fun t => (t.regs.st, t.regs.waitTime, t.out.events)) =
      some (8, some 2850, []) := by decide

def regsAckSent : Regs :=
  inPhase .rcvAckSent (some 1500) { claimed5 with
    bitStartTime := 36120, lineSetTime := 36120, lastLineState := .low, lineOut := .low,
    rxBuf := [(0, 0x05)], rxBitCount := 8, rxFollower := true, rxEom := true }

/-- V-RX11: the release at 37640 and the delivery; with EOM = 0 the frame goes on. -/
theorem test_ack_sent :
    (nextOf (runIn regsAckSent .low 37640)).map (fun t => (t.regs.st, t.regs.lineOut, t.out.events)) =
      some (0, .high, [.setLine .high, .rxComplete [0x05] 1 true]) ∧
    (nextOf (runIn { regsAckSent with rxEom := false } .low 37640)).map (fun t => (t.regs.st, t.regs.waitTime, t.out.events)) =
      some (9, some 2850, [.setLine .high]) := by decide

def regsAck1 : Regs :=
  inPhase .rcvAck1 (some 2850) { claimed5 with
    bitStartTime := 36120, lineSetTime := 36120, lastLineState := .low, rxBuf := [(0, 0x0F)],
    rxBitCount := 8 }

/-- The line-NAK table of section 2.5: a unicast 1 ends the frame, a unicast 0 lets it go on, and the reverse for broadcast. -/
theorem test_ack1 :
    (regsAfter (runIn regsAck1 .high 36720)).map Regs.st = some 0 ∧ (regsAfter (runIn regsAck1 .high 37620)).map Regs.st = some 9 ∧
    (regsAfter (runIn { regsAck1 with rxBroadcast := true } .high 36720)).map Regs.st = some 9 ∧
    eventsAfter (runIn { regsAck1 with rxBroadcast := true } .high 37620) = some [.rxComplete [0x0F] 1 true] := by decide

def regsAck2 : Regs :=
  inPhase .rcvAck2 (some 2850) { claimed5 with
    bitStartTime := 36120, lineSetTime := 37640, rxBitCount := 8 }

theorem test_ack2 :
    (regsAfter (runIn regsAck2 .low 38520)).map (fun q => (q.st, q.bitStartTime, q.waitTime)) = some (3, 38520, some 2850) ∧
    endAfter (runIn regsAck2 .high 38970) = some ⟨0, some 0, [.rxHighTimeout]⟩ := by decide

def regsLineerror : Regs :=
  inPhase .rcvLineerror none { claimed5 with
    bitStartTime := 14520, lineSetTime := 14520, lastLineState := .low }

/-- The end of V-RX19. -/
theorem test_lineerror :
    (regsAfter (runIn regsLineerror .high 18520)).map (fun q => (q.st, q.waitTime)) = some (0, some 0) ∧
    regsAfter (runIn regsLineerror .low 18520) = some regsLineerror := by decide

/-! ### The transmit arms -/

/-- V-TX1, V-TX2, V-TX3. -/
theorem test_bit_source : (List.range 8).map (lineBit 0x55) = [false, true, false, true, false, true, false, true] ∧
    (List.range 8).map (fun i => lineBit 0x8F (8 + i)) = [true, false, false, false, true, true, true, true] ∧
    lowFor Config.default true = 600 ∧ lowFor Config.default false = 1500 := by decide

/-- P1: the start bit of the probe, SL0 at 12280 and SL1 at 16000. -/
theorem test_transmit_start :
    (nextOf (runIn (inPhase .xmitWait (some 12000) { probing5 with bitStartTime := 280 }) .high 12280)).map
      (fun t => (t.regs.st, t.regs.waitTime, t.regs.bitStartTime, t.out.events)) =
      some (12, some 3700, 12280, [.setLine .low]) ∧
    (nextOf (runIn (inPhase .xmitStartbit1 (some 3700) { probing5 with
        bitStartTime := 12280, lineSetTime := 12280, lastLineState := .low, lineOut := .low }) .low 16000)).map
      (fun t => (t.regs.st, t.regs.waitTime, t.regs.bitStartTime, t.out.events)) =
      some (13, some 4500, 12280, [.setLine .high]) := by decide

/-- P1: data bit 0 of 55, a 0, from 16800 to 18320. -/
theorem test_transmit_data :
    (nextOf (runIn (inPhase .xmitStartbit2 (some 4500) { probing5 with bitStartTime := 12280, lineSetTime := 16000 }) .high 16800)).map
      (fun t => (t.regs.st, t.regs.waitTime, t.regs.bitStartTime, t.out.events)) =
      some (14, some 1500, 16800, [.setLine .low]) ∧
    (nextOf (runIn (inPhase .xmitDatabit1 (some 1500) { probing5 with
        bitStartTime := 16800, lineSetTime := 16800, lastLineState := .low, lineOut := .low }) .low 18320)).map
      (fun t => (t.regs.st, t.regs.waitTime, t.regs.bitStartTime, t.out.events)) =
      some (15, some 2400, 16800, [.setLine .high]) := by decide

/-- P1: data bit 1 of 55, a 1, at 19200; after bit 7 the EOM bit, 1 on the last byte, at 36000. -/
theorem test_transmit_next :
    (nextOf (runIn (inPhase .xmitDatabit2 (some 2400) { probing5 with bitStartTime := 16800, lineSetTime := 18320 }) .high 19200)).map
      (fun t => (t.regs.st, t.regs.waitTime, t.regs.txBitIndex, t.out.events)) = some (14, some 600, 1, [.setLine .low]) ∧
    (nextOf (runIn (inPhase .xmitDatabit2 (some 2400) { probing5 with
        bitStartTime := 33600, lineSetTime := 34200, txBitIndex := 7 }) .high 36000)).map
      (fun t => (t.regs.st, t.regs.waitTime, t.regs.txBitIndex, t.out.events)) = some (16, some 600, 8, [.setLine .low]) := by decide

/-- P1: the EOM bit's release at 36600 and the ACK bit at 38400 and 39000. -/
theorem test_transmit_ack :
    (nextOf (runIn (inPhase .xmitEom1 (some 600) { probing5 with
        bitStartTime := 36000, lineSetTime := 36000, lastLineState := .low, lineOut := .low, txBitIndex := 8 }) .low 36600)).map
      (fun t => (t.regs.st, t.regs.waitTime, t.out.events)) = some (17, some 2400, [.setLine .high]) ∧
    (nextOf (runIn (inPhase .xmitEom2 (some 2400) { probing5 with
        bitStartTime := 36000, lineSetTime := 36600, txBitIndex := 8 }) .high 38400)).map
      (fun t => (t.regs.st, t.regs.waitTime, t.regs.bitStartTime, t.out.events)) =
      some (18, some 600, 38400, [.setLine .low]) ∧
    (nextOf (runIn (inPhase .xmitAck1 (some 600) { probing5 with
        bitStartTime := 38400, lineSetTime := 38400, lastLineState := .low, lineOut := .low, txBitIndex := 8 }) .low 39000)).map
      (fun t => (t.regs.st, t.regs.waitTime, t.out.events)) = some (19, some 1050, [.setLine .high]) := by decide

/-- P1: the probe's resolution at 39480. -/
theorem test_probe_claim :
    (nextOf (runIn (inPhase .xmitAckTest (some 1050) { probing5 with
        bitStartTime := 38400, lineSetTime := 39000, txBitIndex := 8 }) .high 39480)).map
      (fun t => (t.regs.la, t.regs.allocating, t.regs.txByteCount, t.regs.lastInitiator, t.out.events)) =
      some (some 5, false, 0, true, [.txComplete [0x55] 1 false, .ready 5]) := by decide

def regsProbeAcknowledged : Regs :=
  inPhase .xmitAckTest (some 1050) { live with
    allocating := true, txByteCount := 1, bitStartTime := 38400, lineSetTime := 38800,
    lastLineState := .low, txBitIndex := 8 }

/-- V-AL1: an acknowledged probe of 4 stages the probe of 8. V-AL2: after 5 only the unregistered address is left. -/
theorem test_probe_acknowledged :
    (nextOf (runIn { regsProbeAcknowledged with devType := 4, txBuf := [(0, 0x44)] } .low 39480)).map
      (fun t => (t.regs.candIdx, t.regs.txBuf, t.regs.txByteCount, t.out.events)) =
      some (1, [(0, 0x88)], 1, [.txComplete [0x44] 1 true]) ∧
    (nextOf (runIn { regsProbeAcknowledged with devType := 5, txBuf := [(0, 0x55)] } .low 39480)).map
      (fun t => (t.regs.la, t.regs.candIdx, t.regs.txByteCount, t.out.events)) =
      some (some 15, 1, 0, [.txComplete [0x55] 1 true, .ready 15]) := by decide

def regsAckTest : Regs :=
  inPhase .xmitAckTest (some 1050) { unicast5 with
    bitStartTime := 0, lineSetTime := 900, lastLineState := .low }

/-- V-TX10, V-TX11. -/
theorem test_ack_test :
    endAfter (runIn { regsAckTest with txBitIndex := 8 } .low 1050) = some ⟨20, none, []⟩ ∧
    eventsAfter (runIn { regsAckTest with txBitIndex := 16 } .low 1050) = some [.txComplete [0x50, 0x36] 2 true] := by decide

def regsFailAttempt : Regs :=
  inPhase .xmitAckTest (some 1050) { pending5 with
    lineSetTime := 900, lastLineState := .low, txBitIndex := 16 }

/-- V-TX12, V-TX13. -/
theorem test_fail_attempt :
    (nextOf (runIn { regsFailAttempt with retry := 4 } .low 1050)).map (fun t => (t.regs.retry, t.regs.txByteCount, t.out.events)) =
      some (5, 2, []) ∧
    (nextOf (runIn { regsFailAttempt with retry := 5 } .low 1050)).map (fun t => (t.regs.retry, t.regs.txByteCount, t.out.events)) =
      some (5, 0, [.txComplete [0x5F, 0x36] 2 false]) := by decide

/-- V-TX14. -/
theorem test_ack_wait : endAfter (runIn (inPhase .xmitAckWait none { unicast5 with
      bitStartTime := 0, lineSetTime := 900, lastLineState := .low, txBitIndex := 8 }) .high 1500) = some ⟨21, some 2400, []⟩ := by
  decide

/-- R107: data bit 8, bit 7 of the second byte 36, a 0. -/
theorem test_ack2_transmit : (nextOf (runIn (inPhase .xmitAck2 (some 2400) { unicast5 with
      bitStartTime := 0, lineSetTime := 1500, txBitIndex := 8 }) .high 2400)).map
    (fun t => (t.regs.st, t.regs.waitTime, t.regs.bitStartTime, t.out.events)) =
    some (14, some 1500, 2400, [.setLine .low]) := by decide

/-! ### Modes and the harness -/

/-- R131. -/
theorem test_modes : Regs.reset.mode = .unconfigured ∧ Regs.mode { live with monitor := true } = .monitor ∧
    probing5.mode = .allocating ∧ live.mode = .unclaimed ∧ claimed5.mode = .claimed ∧ Regs.reset.laSigned = -1 := by decide

/-- R64: `RUNS 0..100 step 40`; R135: the wired AND. -/
theorem test_harness : timesFrom 0 100 40 = [0, 40, 80] ∧
    Bus.level { devices := [stateOf live, stateOf live], ext := .high } = .high ∧
    Bus.level { devices := [stateOf live, stateOf { live with lineOut := .low }], ext := .high } = .low ∧
    Bus.level { devices := [], ext := .low } = .low := by decide

/-- R64, R135: the external level of each tick is the input's at that time, in both orders. -/
theorem test_ticks_external_level : let ext := fun t => if t < 40 then Level.high else Level.low
    let b : Bus := { devices := [], ext := .high }
    Bus.ticks Bus.tick ext [0, 40] b = .next { devices := [], ext := .low } ∧
    Bus.ticks Bus.tickSim ext [0, 40] b = .next { devices := [], ext := .low } := ⟨rfl, rfl⟩

/-- R141. -/
theorem test_cadence : keepsCadence Config.default [0xFFFFFFF0, 0x18] ∧ ¬keepsCadence Config.default [0, 41] := by
  constructor
  · exact ⟨by decide, trivial⟩
  · exact fun h => absurd h.1 (by decide)

/-! ### Witnesses: states that meet the statements' hypotheses -/

/-- A monitor. -/
def monitoring : Regs := { live with monitor := true }

/-- The registers of an initialised block at rest meet the invariant when the allocator's part of it holds. -/
theorem idle_inv (r : Regs) (h : r.st = Phase.code .idle ∧ r.waitTime = some 0 ∧ r.initialized = true ∧ r.rxBuf = [] ∧
    (r.txBuf.wf = true ∧ ∀ c ∈ r.txBuf, c.1 < 16) ∧ r.rxBitCount = 0 ∧ r.txByteCount ≤ 16 ∧ r.retry ≤ 5 ∧ r.candIdx = 0 ∧ r.bitStartTime = 0 ∧
    r.lineSetTime = 0 ∧ r.lineOut = .high ∧ r.rxFollower = false ∧ (r.monitor = true → r.la = none ∧ r.txByteCount = 0))
    (ha : AllocatorOk Config.default r) : (stateOf r).Inv := by
  obtain ⟨hst, hw, hi, hrx, ⟨htx, hin⟩, hbits, hbytes, hretry, hc, hb, hl, hlo, hf, hm⟩ := h
  refine ⟨test_default_config_ok, .idle, {
    state := hst, inert := ?_, buffers := ?_, counters := ?_, timers := ?_, allocator := ha, line := ?_,
    rx := trivial, tx := trivial }⟩
  · intro h0
    rw [show (stateOf r).regs.initialized = true from hi] at h0
    cases h0
  · exact ⟨by rw [show (stateOf r).regs.rxBuf = [] from hrx]; rfl, htx,
      fun i _ => by rw [show (stateOf r).regs.rxBuf = [] from hrx]; rfl,
      fun i _ => by rw [show (stateOf r).regs.rxBuf = [] from hrx]; rfl,
      fun i hi => Memory.read_unlisted _ i fun c hc => Nat.ne_of_lt (Nat.lt_of_lt_of_le (hin c hc) hi)⟩
  · exact ⟨by rw [show (stateOf r).regs.rxBitCount = 0 from hbits]; exact Nat.zero_le _, hbytes, hretry, .inl hc⟩
  · refine ⟨by rw [show (stateOf r).regs.bitStartTime = 0 from hb]; exact Nat.two_pow_pos _,
      by rw [show (stateOf r).regs.lineSetTime = 0 from hl]; exact Nat.two_pow_pos _, ?_, fun _ => hw,
      by rw [show (stateOf r).regs.waitTime = some 0 from hw]; decide⟩
    intro d hd
    rw [show (stateOf r).regs.waitTime = some 0 from hw] at hd
    cases hd
    exact Nat.two_pow_pos _
  · exact ⟨by rw [show (stateOf r).regs.lineOut = .high from hlo]; decide, fun h => ⟨(hm h).1, (hm h).2, rfl, rfl⟩,
      fun h => by rw [show (stateOf r).regs.rxFollower = false from hf] at h; cases h.1⟩

theorem claimed5_inv : (stateOf claimed5).Inv :=
  idle_inv claimed5 (by decide) ⟨by decide, by rintro a ⟨⟩; rfl, by decide, by rintro a ⟨⟩ h; exact absurd h (by decide)⟩

theorem pending5_inv : (stateOf pending5).Inv :=
  idle_inv pending5 (by decide) ⟨by decide, by rintro a ⟨⟩; rfl, by decide, by rintro a ⟨⟩ _; rfl⟩

theorem probing5_inv : (stateOf probing5).Inv :=
  idle_inv probing5 (by decide) ⟨fun _ => ⟨rfl, rfl, rfl, 0x5, rfl, by decide, rfl⟩, by rintro a ⟨⟩, by decide, by rintro a ⟨⟩⟩

theorem monitoring_inv : (stateOf monitoring).Inv :=
  idle_inv monitoring (by decide) ⟨by decide, by rintro a ⟨⟩, by decide, by rintro a ⟨⟩⟩

theorem reset_inv : State.reset.Inv := by
  refine ⟨test_default_config_ok, .idle, {
    state := rfl, inert := fun _ => rfl, buffers := ⟨rfl, rfl, fun _ _ => rfl, fun _ _ => rfl, fun _ _ => rfl⟩,
    counters := ⟨by decide, by decide, by decide, .inl rfl⟩, timers := ⟨by decide, by decide, ?_, fun _ => rfl, by decide⟩,
    allocator := ⟨by decide, ?_, by decide, ?_⟩, line := ⟨by decide, by decide, by decide⟩, rx := trivial, tx := trivial }⟩
  · rintro d ⟨⟩
    decide
  · rintro a ⟨⟩
  · rintro a ⟨⟩

theorem witness_ResetRegisterValues : 15 < Config.default.cap := by decide

theorem witness_ResetSatisfiesInvariant : Config.default.ok = true := by decide

theorem witness_StepRunsDecodedOperation :
    (∃ s : State, s.inbox = [bareOp 0x20000015 0] ∧ s.cfg.ok = true ∧ (bareOp 0x20000015 0).overlap = false ∧
      decodeCommand (bareOp 0x20000015 0).cw = .accept (.init 0x2000 5 false false)) ∧
    State.reset.inbox = [] ∧ State.reset.cfg.ok = true :=
  ⟨⟨State.reset.offer (bareOp 0x20000015 0), by decide⟩, by decide⟩

theorem witness_EncodeDecodeAgree : decode (.command 0x00000412) = .accept (.xmit 4 16) ∧
    decode (.stateCode 21) = .accept .armXmitAck2 := by decide

theorem witness_ReservedWordsAreRefused : (Session.fresh Config.default).machine.cfg.ok = true ∧
    (bareOp 0x00000842 0).overlap = false ∧ reservedWord (bareOp 0x00000842 0).cw = true := by decide

theorem witness_ReservedStateCodes : Reachable State.reset ∧ (stateOf { live with st := 22 }).regs.initialized = true ∧
    22 ≤ (stateOf { live with st := 22 }).regs.st.toNat := ⟨.start _ (by decide), by decide, by decide⟩

theorem witness_HostLevelRefusals : (State.resetWith { Config.default with timeWidth := 14 }).cfg.ok = false ∧
    (State.reset.cfg.ok = true ∧ ({ bareOp 0 0 with overlap := true } : HostOp).overlap = true) ∧
    State.reset.regs.initialized = false ∧ (stateOf live).regs.initialized = true := by decide

theorem witness_InitConfiguresAndStartsAllocator : State.reset.regs.initialized = false ∧
    (0 < State.reset.cfg.cap ∧ State.reset.cfg.candidatesOf 5 = 0x5 :: [0xF] ∧ (0x2000 : BitVec 16) ≠ State.reset.cfg.physBroadcast) ∧
    State.reset.cfg.candidatesOf 2 = [] ∧ (0xFFFF : BitVec 16) = State.reset.cfg.physBroadcast := by decide

theorem witness_XmitRejections : State.reset.regs.la = none ∧
    ((stateOf { claimed5 with monitor := true }).regs.la = some 5 ∧
      (stateOf { claimed5 with monitor := true }).regs.monitor = true) ∧
    (stateOf pending5).regs.txByteCount ≠ 0 ∧ (stateOf claimed5).cfg.maxPayload < (16 : BitVec 5).toNat := by decide

theorem witness_XmitStagesFrame : (stateOf claimed5).regs.la = some 5 ∧ (stateOf claimed5).regs.monitor = false ∧
    (stateOf claimed5).regs.txByteCount = 0 ∧ (15 : BitVec 5).toNat ≤ (stateOf claimed5).cfg.maxPayload ∧
    (stateOf claimed5).cfg.ok = true ∧ (stateOf claimed5).regs.txBuf.wf = true ∧
    (14 : Fin payloadWidth).val < (15 : BitVec 5).toNat ∧ (15 : BitVec 5).toNat < 16 := by decide

/-- A block at rest whose counter port shows `now`. -/
def atTime (now : Nat) (r : Regs) : State := { stateOf r with op := { now := now, payload := Vector.replicate payloadWidth 0 } }

theorem witness_SettleWindowMasksRun :
    (timeDiff Config.default 249 (atTime 249 live).regs.lineSetTime < Config.default.settleRise ∧
      (atTime 249 live).regs.lastLineState = .high ∧ (atTime 249 live).op.now % 2 ^ (atTime 249 live).cfg.timeWidth = 249 ∧
      (atTime 249 live).regs.initialized = true ∧ (atTime 249 live).regs.st = Phase.code .idle) ∧
    (timeDiff Config.default 49 0 < Config.default.settleFall ∧
      (atTime 49 { live with lastLineState := .low }).regs.lastLineState = .low) := by decide

theorem witness_QuietRunChangesNothing :
    (∃ s : State, s.regs.initialized = true ∧ s.regs.st = Phase.code .xmitDatabit2 ∧ ∀ d, s.regs.waitTime = some d →
      timeDiff s.cfg (s.op.now % 2 ^ s.cfg.timeWidth) s.regs.bitStartTime < d) ∧
    ((stateOf live).regs.initialized = true ∧ (stateOf live).regs.st = Phase.code .idle ∧
      (stateOf live).regs.txByteCount = 0) ∧
    (stateOf { live with lastLineState := .low }).regs.lastLineState = .low ∧ (stateOf monitoring).regs.monitor = true := by
  refine ⟨⟨atTime 2399 (inPhase .xmitDatabit2 (some 2400) unicast5), by decide, by decide, ?_⟩, by decide⟩
  rintro d ⟨⟩
  decide

theorem witness_RunDispatchesOneArm :
    (Config.default.settleRise ≤ timeDiff Config.default ((atTime 250 live).op.now % 2 ^ 32) (atTime 250 live).regs.lineSetTime ∧
      (atTime 250 live).regs.initialized = true ∧ (atTime 250 live).regs.st = Phase.code .idle ∧
      (atTime 250 live).regs.waitTime = some 0 ∧ 0 ≤ timeDiff Config.default 250 (atTime 250 live).regs.bitStartTime) ∧
    Level.low ≠ (atTime 250 live).regs.lastLineState ∧
    (Phase.xmitWait ∈ [Phase.xmitWait, .xmitAck2] ∧ Phase.rcvAckSent ∉ [Phase.xmitWait, .xmitAck2]) ∧
    (Config.default.settleFall ≤ timeDiff Config.default 50 0 ∧
      (atTime 50 { live with lastLineState := .low }).regs.lastLineState = .low) := by decide

theorem witness_ArbitrationLossStartsReceive :
    ∃ s : State, s.regs.initialized = true ∧ s.regs.st = Phase.code .xmitAck2 ∧ isTransmit .xmitAck2 = true ∧
      s.regs.lastLineState = .high ∧ s.regs.lineOut = .high ∧
      s.cfg.settleRise ≤ timeDiff s.cfg (s.op.now % 2 ^ s.cfg.timeWidth) s.regs.lineSetTime :=
  ⟨atTime 250 (inPhase .xmitAck2 (some 2400) unicast5), by decide⟩

theorem witness_TimeDifferenceWraps : 0x158 < 2 ^ Config.default.timeWidth ∧ 0xFFFFFF00 < 2 ^ Config.default.timeWidth ∧
    2 ^ 32 - 1 < 2 ^ Config.default.timeWidth ∧ timeDiff Config.default 0x158 0xFFFFFF00 = 600 := by decide

theorem witness_BudgetTest : (stateOf { live with bitStartTime := 0xFFFFFF00, waitTime := some 600 }).cfg.timeWidth = 32 ∧
    (stateOf { live with bitStartTime := 0xFFFFFF00, waitTime := some 600 }).regs.waitTime = some 600 := by decide

theorem witness_ClassifierWindows : Config.default.ok = true ∧
    (∀ d ∈ [300, 900], Config.default.bitLow1 ≤ d + Config.default.lowMargin ∧
      d ≤ Config.default.bitLow1 + Config.default.lowMargin) ∧
    (∀ d ∈ [1200, 1800], Config.default.bitLow0 ≤ d + Config.default.lowMargin ∧
      d ≤ Config.default.bitLow0 + Config.default.lowMargin) ∧
    (∀ d ∈ [0, 299, 901, 1199, 1801],
      ¬(Config.default.bitLow1 ≤ d + Config.default.lowMargin ∧ d ≤ Config.default.bitLow1 + Config.default.lowMargin) ∧
      ¬(Config.default.bitLow0 ≤ d + Config.default.lowMargin ∧ d ≤ Config.default.bitLow0 + Config.default.lowMargin)) := by
  decide

theorem witness_NominalBitsClassifyAtCadence : Config.default.ok = true ∧ 300 ≤ Config.default.lowMargin ∧ 299 < 300 ∧
    300 ≤ Config.default.bitLow1 ∧
    ∀ d ∈ [Config.default.bitLow1 + 300, Config.default.bitLow0 + 300], d < 2 ^ Config.default.timeWidth := by decide

theorem witness_IdleArm :
    (∃ s : State, s.arm.changed = true ∧ s.arm.line = .low) ∧
    (∃ s : State, s.arm.line = .high ∧ 0 < s.regs.txByteCount ∧ s.regs.monitor = false) ∧
    (∃ s : State, ¬(s.arm.changed = true ∧ s.arm.line = .low) ∧
      ¬(s.arm.line = .high ∧ 0 < s.regs.txByteCount ∧ s.regs.monitor = false)) :=
  ⟨⟨atArm true true .low 250 pending5, by decide⟩, ⟨atArm false true .high 250 pending5, by decide⟩,
    ⟨atArm true true .high 250 live, by decide⟩⟩

/-- Every combination of `changed` and `elapsed` is some state's, whatever its registers: what the clauses of the arms' statements
that ask for nothing else need. -/
theorem arm_inputs (c e : Bool) (l : Level) (n : Nat) (r : Regs) : (atArm c e l n r).arm.changed = c ∧
    (atArm c e l n r).arm.elapsed = e ∧ (atArm c e l n r).arm.line = l ∧ (atArm c e l n r).regs = r := ⟨rfl, rfl, rfl, rfl⟩

theorem witness_RcvStartbit1Arm :
    (∀ d ∈ [3400, 4000], 3700 ≤ width (atArm true true .high d live) + 300 ∧ width (atArm true true .high d live) ≤ 3700 + 300 ∧
      (atArm true true .high d live).arm.changed = true) ∧
    (∀ d ∈ [3399, 4001], ¬(3700 ≤ width (atArm true true .high d live) + 300 ∧ width (atArm true true .high d live) ≤ 3700 + 300)) ∧
    ((atArm false true .low 4000 live).arm.changed = false ∧ (atArm false true .low 4000 live).arm.elapsed = true) ∧
    (atArm false false .low 4000 live).arm.elapsed = false := by decide

theorem witness_RcvStartbit2Arm :
    (∀ d ∈ [4050, 4950], 4500 ≤ width (atArm true true .low d live) + 450 ∧ width (atArm true true .low d live) ≤ 4500 + 450 ∧
      (atArm true true .low d live).arm.changed = true) ∧
    (∀ d ∈ [4049, 4951], ¬(4500 ≤ width (atArm true true .low d live) + 450 ∧ width (atArm true true .low d live) ≤ 4500 + 450)) ∧
    ((atArm false true .high 4950 live).arm.changed = false ∧ (atArm false true .high 4950 live).arm.elapsed = true) ∧
    (atArm false false .high 4949 live).arm.elapsed = false := by decide

/-- A full frame less one bit, and an empty one. -/
theorem witness_RcvDatabit1Arm :
    (∀ n ∈ [0, 127], (atArm true false .high 600 { live with rxBitCount := n }).regs.rxBitCount < 8 * Config.default.cap ∧
      (atArm true false .high 600 { live with rxBitCount := n }).regs.rxBuf.wf = true ∧
      (atArm true false .high 600 { live with rxBitCount := n }).arm.changed = true) ∧
    (atArm false true .low 2850 live).arm.elapsed = true ∧ (atArm false false .low 2849 live).arm.elapsed = false := by decide

theorem witness_RcvDatabit2Arm :
    ((atArm true false .low 2400 { live with rxBitCount := 128 }).arm.changed = true ∧
      (atArm true false .low 2400 { live with rxBitCount := 128 }).regs.rxBitCount % 8 = 0) ∧
    (atArm true false .low 2400 { live with rxBitCount := 127 }).regs.rxBitCount % 8 ≠ 0 ∧
    (atArm false true .high 2850 live).arm.elapsed = true ∧ (atArm false false .high 2849 live).arm.elapsed = false := by decide

theorem witness_RcvEom1Arm : 0 < (stateOf live).cfg.cap ∧ (atArm true true .high 600 { live with rxBitCount := 128 }).arm.changed = true ∧
    ((atArm false true .low 2850 live).arm.changed = false ∧ (atArm false true .low 2850 live).arm.elapsed = true) ∧
    (atArm false false .low 2849 live).arm.elapsed = false := by decide

theorem witness_RcvEom2Arm :
    (∃ s : State, s.arm.changed = true ∧ s.regs.monitor = false ∧ s.regs.rxFollower = true ∧ s.regs.rxNak = false) ∧
    (∃ s : State, s.arm.changed = true ∧ s.regs.monitor = false ∧ s.regs.rxBroadcast = true ∧ s.regs.rxNak = true) ∧
    (∃ s : State, s.arm.changed = true ∧ ¬(s.regs.monitor = false ∧ ((s.regs.rxFollower = true ∧ s.regs.rxNak = false) ∨
      (s.regs.rxBroadcast = true ∧ s.regs.rxNak = true)))) ∧
    (atArm false true .high 2850 live).arm.elapsed = true ∧ (atArm false false .high 2849 live).arm.elapsed = false :=
  ⟨⟨atArm true false .low 2400 { live with rxFollower := true }, by decide⟩,
    ⟨atArm true false .low 2400 { live with rxBroadcast := true, rxNak := true }, by decide⟩,
    ⟨atArm true false .low 2400 { live with rxBroadcast := true }, by decide⟩, by decide⟩

/-- The ends of a frame, with and without delivery, on a full and on a one-byte frame. -/
theorem witness_RcvAckSentArm :
    (∀ n ∈ [8, 128], (stateOf { live with rxBitCount := n }).regs.rxBitCount ≤ 8 * Config.default.cap) ∧
    (∃ s : State, s.arm.elapsed = true ∧ ¬(s.regs.rxEom = true ∨ s.regs.rxNak = true)) ∧
    (∃ s : State, s.arm.elapsed = true ∧ s.regs.rxEom = true ∧ s.regs.rxFollower = true) ∧
    (∃ s : State, s.arm.elapsed = true ∧ s.regs.rxEom = true ∧
      ¬(s.regs.rxFollower = true ∨ s.regs.rxBroadcast = true ∨ s.regs.promiscuous = true)) ∧
    (atArm false false .low 1499 live).arm.elapsed = false :=
  ⟨by decide, ⟨atArm false true .low 1500 live, by decide⟩,
    ⟨atArm false true .low 1500 { live with rxEom := true, rxFollower := true }, by decide⟩,
    ⟨atArm false true .low 1500 { live with rxEom := true }, by decide⟩, by decide⟩

theorem witness_RcvAck1Arm :
    (∀ n ∈ [8, 128], (stateOf { live with rxBitCount := n }).regs.rxBitCount ≤ 8 * Config.default.cap) ∧
    (∃ s : State, s.arm.changed = true ∧ ¬(s.regs.rxEom = true ∨
      (s.regs.rxNak || (classify s.cfg (width s)).2) = true ∨ (classify s.cfg (width s)).1 = true) ∧ s.regs.rxBroadcast = false) ∧
    (∃ s : State, s.arm.changed = true ∧ (classify s.cfg (width s)).1 = true ∧ s.regs.rxBroadcast = false ∧
      s.regs.promiscuous = true) ∧
    (∃ s : State, s.arm.changed = true ∧ s.regs.rxEom = true ∧
      ¬(s.regs.rxFollower = true ∨ s.regs.rxBroadcast = true ∨ s.regs.promiscuous = true)) ∧
    ((atArm false true .low 2850 live).arm.changed = false ∧ (atArm false true .low 2850 live).arm.elapsed = true) ∧
    (atArm false false .low 2849 live).arm.elapsed = false :=
  ⟨by decide, ⟨atArm true false .high 1500 live, by decide⟩, ⟨atArm true false .high 600 { live with promiscuous := true }, by decide⟩,
    ⟨atArm true false .high 1500 { live with rxEom := true }, by decide⟩, by decide⟩

theorem witness_RcvAck2Arm : (atArm true false .low 2400 live).arm.changed = true ∧
    ((atArm false true .high 2850 live).arm.changed = false ∧ (atArm false true .high 2850 live).arm.elapsed = true) ∧
    (atArm false false .high 2849 live).arm.elapsed = false := by decide

theorem witness_RiseWaitingArms :
    ((atArm true false .high 4000 live).arm.changed = true ∧ (atArm true false .high 4000 live).arm.line = .high) ∧
    ¬((atArm false false .high 4000 live).arm.changed = true ∧ (atArm false false .high 4000 live).arm.line = .high) ∧
    ¬((atArm true false .low 4000 live).arm.changed = true ∧ (atArm true false .low 4000 live).arm.line = .high) := by decide

theorem witness_FixedBitStartArms : (atArm false true .high 12000 pending5).arm.elapsed = true ∧
    (atArm false false .high 11999 pending5).arm.elapsed = false := by decide

theorem witness_LowPhaseEndArms : (atArm false true .low 600 pending5).arm.elapsed = true ∧
    (atArm false false .low 599 pending5).arm.elapsed = false := by decide

/-- The bit indices at the ends of a byte and of a full frame. -/
theorem witness_DataBitStartArms : 0 < (stateOf pending5).cfg.cap ∧ (atArm false true .high 2400 pending5).arm.elapsed = true ∧
    (∀ i ∈ [0, 6, 8, 126], i + 1 < 8 * Config.default.cap ∧ (i + 1) % 8 ≠ 0) ∧ (∀ i ∈ [7, 15, 127], (i + 1) % 8 = 0) ∧ 127 < 8 * Config.default.cap ∧
    (stateOf { unicast5 with txBitIndex := 127 }).regs.txBitIndex = 127 ∧
    (atArm false false .high 2399 pending5).arm.elapsed = false := by decide

/-- Before the sample; a unicast byte that is not the last, acknowledged; the same of a broadcast. -/
theorem witness_AckTestContinuesFrame : (atArm false false .low 1049 unicast5).arm.elapsed = false ∧
    (∃ s : State, s.arm.elapsed = true ∧ 0 < s.cfg.cap ∧ (s.regs.txBuf.read 0).extractLsb' 0 4 ≠ s.cfg.laBroadcast ∧ s.arm.line = .low ∧
      s.regs.txBitIndex ≠ 8 * s.regs.txByteCount) ∧
    (∃ s : State, s.arm.elapsed = true ∧ 0 < s.cfg.cap ∧ (s.regs.txBuf.read 0).extractLsb' 0 4 = s.cfg.laBroadcast ∧ s.arm.line = .high ∧
      s.regs.txBitIndex ≠ 8 * s.regs.txByteCount) :=
  ⟨by decide, ⟨atArm false true .low 1050 { unicast5 with txBitIndex := 8 }, by decide⟩,
    ⟨atArm false true .high 1050 { pending5 with txBitIndex := 8 }, by decide⟩⟩

/-- A unicast frame nobody acknowledged, with the retry counter at 4 and at 5, and a one-byte frame. -/
theorem witness_AckTestFailureResolves :
    (∃ s : State, s.arm.elapsed = true ∧ 0 < s.cfg.cap ∧ (s.regs.txBuf.read 0).extractLsb' 0 4 ≠ s.cfg.laBroadcast ∧ s.arm.line ≠ .low ∧
      s.regs.txByteCount ≠ 1 ∧ s.regs.retry < s.cfg.maxRetries) ∧
    (∃ s : State, s.arm.elapsed = true ∧ 0 < s.cfg.cap ∧ (s.regs.txBuf.read 0).extractLsb' 0 4 ≠ s.cfg.laBroadcast ∧ s.arm.line ≠ .low ∧
      s.regs.txByteCount ≠ 1 ∧ s.cfg.maxRetries ≤ s.regs.retry ∧ s.regs.txByteCount ≤ Config.default.cap) ∧
    (∃ s : State, s.arm.elapsed = true ∧ 0 < s.cfg.cap ∧ (s.regs.txBuf.read 0).extractLsb' 0 4 = s.cfg.laBroadcast ∧ s.arm.line ≠ .high ∧
      s.regs.txByteCount = 1 ∧ s.regs.allocating = false) :=
  ⟨⟨atArm false true .high 1050 { unicast5 with retry := 4 }, by decide⟩,
    ⟨atArm false true .high 1050 { unicast5 with retry := 5 }, by decide⟩,
    ⟨atArm false true .low 1050 { claimed5 with txBuf := [(0, 0x5F)], txByteCount := 1 }, by decide⟩⟩

theorem witness_AckTestSuccessResolves :
    ∃ s : State, s.arm.elapsed = true ∧ 0 < s.cfg.cap ∧ (s.regs.txBuf.read 0).extractLsb' 0 4 ≠ s.cfg.laBroadcast ∧ s.arm.line = .low ∧
      s.regs.txBitIndex = 8 * s.regs.txByteCount ∧ s.regs.txByteCount ≤ Config.default.cap ∧ s.regs.allocating = false :=
  ⟨atArm false true .low 1050 { unicast5 with txBitIndex := 16 }, by decide⟩

/-- V-AL1 and V-AL2: the probe of 5 not acknowledged; the probe of 5, and the one of 4, acknowledged. -/
theorem witness_ProbeOutcomeStepsAllocator :
    (∃ s : State, s.arm.elapsed = true ∧ 0 < s.cfg.cap ∧ s.regs.allocating = true ∧ s.regs.txByteCount = 1 ∧
      (s.regs.txBuf.read 0).extractLsb' 0 4 ≠ s.cfg.laBroadcast ∧ s.arm.line ≠ .low ∧
      (s.cfg.candidatesOf s.regs.devType)[s.regs.candIdx]? = some 0x5) ∧
    (∃ s : State, s.arm.elapsed = true ∧ 0 < s.cfg.cap ∧ s.regs.allocating = true ∧ s.regs.txByteCount = 1 ∧ s.regs.txBitIndex = 8 ∧
      (s.regs.txBuf.read 0).extractLsb' 0 4 ≠ s.cfg.laBroadcast ∧ s.arm.line = .low ∧
      (s.cfg.candidatesOf s.regs.devType)[s.regs.candIdx + 1]? = some s.cfg.laUnregistered) ∧
    (∃ s : State, s.arm.elapsed = true ∧ 0 < s.cfg.cap ∧ s.regs.allocating = true ∧ s.regs.txByteCount = 1 ∧ s.regs.txBitIndex = 8 ∧
      (s.regs.txBuf.read 0).extractLsb' 0 4 ≠ s.cfg.laBroadcast ∧ s.arm.line = .low ∧
      (s.cfg.candidatesOf s.regs.devType)[s.regs.candIdx + 1]? = some 0x8 ∧ (0x8 : LogAddr) ≠ s.cfg.laUnregistered) :=
  ⟨⟨atArm false true .high 1050 { probing5 with txBitIndex := 8 }, by decide⟩,
    ⟨atArm false true .low 1050 { probing5 with txBitIndex := 8 }, by decide⟩,
    ⟨atArm false true .low 1050 { probing5 with devType := 4, txBuf := [(0, 0x44)], txBitIndex := 8 }, by decide⟩⟩

theorem witness_ReceiveArmsFrame : isTransmit .rcvEom2 = false ∧
    (∃ t, exec Phase.rcvEom2.arm (atArm true false .low 2400 { live with rxFollower := true }) = .next t) ∧
    (∃ t, exec Phase.rcvDatabit1.arm (atArm true false .high 600 { live with rxBitCount := 127 }) = .next t) ∧
    (stateOf live).regs.rxBuf.wf = true := ⟨by decide, ⟨_, rfl⟩, ⟨_, rfl⟩, by decide⟩

theorem witness_TransmitArmsFrame : isTransmit .xmitAckTest = true ∧ isTransmit .xmitEom2 = true ∧
    (∃ t, exec Phase.xmitAckTest.arm (atArm false true .high 1050 { probing5 with txBitIndex := 8 }) = .next t) ∧
    (∃ t, exec Phase.xmitEom2.arm (atArm false true .high 2400 pending5) = .next t) ∧
    (stateOf pending5).regs.txBuf.wf = true ∧ (stateOf pending5).regs.allocating = false :=
  ⟨by decide, by decide, ⟨_, rfl⟩, ⟨_, rfl⟩, by decide, by decide⟩

theorem witness_BufferAccess : Memory.wf [(0, 0x05), (15, 0x7F)] = true ∧ 15 < Config.default.cap ∧
    Config.default.cap ≤ 16 ∧ Config.default.cap < 17 := by decide

theorem witness_ArmsFaultOnlyOutOfRange :
    (∃ e, exec Phase.rcvDatabit1.arm (atArm true false .high 600 { live with rxBitCount := 128 }) = .fault e) ∧
    (atArm true false .high 600 { live with rxBitCount := 128 }).arm.changed = true ∧
    8 * Config.default.cap ≤ (atArm true false .high 600 { live with rxBitCount := 128 }).regs.rxBitCount :=
  ⟨⟨_, rfl⟩, by decide, by decide⟩

theorem witness_StepKeepsInvariant : ∃ s t : State, s.Inv ∧ step s = .next t :=
  ⟨(stateOf pending5).offer (runOp .high 280), _, pending5_inv, rfl⟩

/-- Each kind of operation, on a block not initialised and on an initialised one. -/
theorem witness_OperationsComplete : State.reset.Inv ∧ (stateOf claimed5).Inv ∧
    ((bareOp 0x20000015 0).overlap = false ∧ reservedWord 0x20000015 = false ∧
      ((0x20000015 : BitVec 32) &&& 0x3 = 0x1 ∧ State.reset.regs.initialized = false)) ∧
    (reservedWord 0x00000412 = false ∧ (0x00000412 : BitVec 32) &&& 0x3 = 0x2) ∧
    (reservedWord 0x00000007 = false ∧ (0x00000007 : BitVec 32) &&& 0x3 = 0x3 ∧
      (stateOf claimed5).regs.initialized = true) := ⟨reset_inv, claimed5_inv, by decide, by decide, by decide⟩

theorem witness_RunCompletes : (stateOf probing5).Inv ∧ (stateOf probing5).regs.initialized = true :=
  ⟨probing5_inv, rfl⟩

theorem witness_ReachableNeverFaults : Reachable (State.reset.offer (bareOp 0x20000015 0)) :=
  .offered _ _ (.start _ test_default_config_ok)

theorem witness_LineLowOnlyInOwnLowPhases : Reachable State.reset := .start _ test_default_config_ok

theorem witness_MonitorNeverDrives : (stateOf monitoring).Inv ∧ (stateOf monitoring).regs.monitor = true ∧
    ∃ t, performOp (runOp .low 280) (stateOf monitoring) = .next t := ⟨monitoring_inv, rfl, _, rfl⟩

theorem witness_ConfigurationIsImmutable :
    (∃ s t : State, step s = .next t ∧ s.regs.initialized = true) ∧
    ∃ s t : State, step s = .next t ∧ s.regs.initialized = false ∧ s.inbox = [xmitOp 4 [0x8F]] ∧
      (xmitOp 4 [0x8F]).cw &&& 0x3 ≠ 0x1 :=
  ⟨⟨(stateOf pending5).offer (runOp .high 280), _, rfl, rfl⟩,
   State.reset.offer (xmitOp 4 [0x8F]), _, rfl, rfl, rfl, by decide⟩

theorem witness_OnlyRunAdvancesProtocol : (Instr.init 0x2000 5 false false).isCommand = true ∧
    (∃ t, exec (.init 0x2000 5 false false) State.reset = .next t) ∧ (Instr.xmit 4 1).isCommand = true ∧
    ∃ t, exec (.xmit 4 1) (stateOf claimed5) = .next t := ⟨rfl, ⟨_, rfl⟩, rfl, ⟨_, rfl⟩⟩

theorem witness_AddressIsWrittenOnce : ((stateOf claimed5).Inv ∧ (stateOf claimed5).regs.la = some 5) ∧
    ((stateOf probing5).Inv ∧ (stateOf probing5).regs.la = none) ∧
    (∃ t, performOp (runOp .low 280) (stateOf claimed5) = .next t) ∧
    ∃ t, performOp (runOp .high 280) (stateOf probing5) = .next t :=
  ⟨⟨claimed5_inv, rfl⟩, ⟨probing5_inv, rfl⟩, ⟨_, rfl⟩, ⟨_, rfl⟩⟩

/-- A session of an INIT, a RUN and a refused word. -/
theorem witness_ReadyReportsTheClaimedAddress : Config.default.ok = true ∧
    ∃ x, Session.run [bareOp 0x20000015 0, runOp .high 280, bareOp 0 0] (Session.fresh Config.default) = some x :=
  ⟨by decide, _, rfl⟩

theorem witness_FrameLeavesOnlyByReport : ((stateOf claimed5).Inv ∧ (stateOf claimed5).regs.txByteCount = 0) ∧
    ((stateOf pending5).Inv ∧ 0 < (stateOf pending5).regs.txByteCount) ∧
    (∃ t, performOp (runOp .high 280) (stateOf claimed5) = .next t) ∧
    ∃ t, performOp (runOp .high 280) (stateOf pending5) = .next t :=
  ⟨⟨claimed5_inv, rfl⟩, ⟨pending5_inv, by decide⟩, ⟨_, rfl⟩, ⟨_, rfl⟩⟩

theorem witness_AtMostTwoEvents : ∃ t, performOp (runOp .low 37640) (stateOf regsAckSent) = .next t := ⟨_, rfl⟩

/-- A frame to another device ends: delivered to the promiscuous one of the two blocks only. -/
theorem witness_PromiscuousAffectsDeliveryOnly :
    let s := { stateOf { regsAck1 with rxBuf := [(0, 0x03)] } with op := { now := 36720, payload := Vector.replicate payloadWidth 0 } }
    (∃ t, exec (.run .high) s = .next t) ∧
      ∃ u, exec (.run .high) { s with regs := { s.regs with promiscuous := true } } = .next u := ⟨⟨_, rfl⟩, ⟨_, rfl⟩⟩

theorem witness_ModeTransitions : ∃ s t : State, s.Inv ∧ step s = .next t :=
  ⟨State.reset.offer (bareOp 0x20000015 0), _, reset_inv, rfl⟩

theorem witness_StuckLowLineIsInert : waitsForever .xmitAckWait = true ∧ waitsForever .rcvLineerror = true ∧
    (∃ s : State, s.regs.initialized = true ∧ s.regs.lastLineState = .low ∧ s.regs.st = Phase.code .rcvLineerror ∧
      s.regs.waitTime = none) ∧
    ∃ s : State, s.regs.initialized = true ∧ s.regs.lastLineState = .low ∧ s.regs.st = Phase.code .idle :=
  ⟨rfl, rfl, ⟨stateOf regsLineerror, by decide⟩, ⟨stateOf { live with lastLineState := .low }, by decide⟩⟩

theorem witness_SentFrameIsReceived : 16 ≤ Config.default.cap ∧ (stateOf live).regs.rxBuf = [] ∧ (stateOf live).regs.rxBitCount = 0 := by
  decide

theorem witness_BusIsWiredAnd :
    (∃ a', runDevice 280 (Bus.level { devices := [stateOf pending5, stateOf live], ext := .high }) (stateOf pending5) = .next a') ∧
    ∃ b', runDevice 280 .high (stateOf live) = .next b' := ⟨⟨_, rfl⟩, ⟨_, rfl⟩⟩

end Sys2Proof.Tests
end

section
/-! PROOF. Only differences of times count (spec/00_scope.md R10): the difference of two times in plain arithmetic, and RUN of a
state with every time moved on. Each shared operation commutes with the shift, then each arm does, then RUN. -/

namespace Sys2Proof.Machine

/-! ### The difference of two times -/

theorem timeDiff_of_le {c : Config} {a b : Nat} (ha : a < 2 ^ c.timeWidth) (h : b ≤ a) : timeDiff c a b = a - b := by
  rw [timeDiff, ← Int.ofNat_sub h, ← Int.natCast_mod, Int.toNat_natCast, Nat.mod_eq_of_lt (by omega)]

theorem timeDiff_of_lt {c : Config} {a b : Nat} (hb : b < 2 ^ c.timeWidth) (h : a < b) :
    timeDiff c a b = a + 2 ^ c.timeWidth - b := by
  have hsub : ((a : Int) - b) + ((2 ^ c.timeWidth : Nat) : Int) = ((a + 2 ^ c.timeWidth - b : Nat) : Int) := by omega
  rw [timeDiff, ← Int.add_emod_right, hsub, ← Int.natCast_mod, Int.toNat_natCast, Nat.mod_eq_of_lt (by omega)]

/-- Advancing a time by `d` ticks and wrapping it makes a difference of `d` (R10). -/
theorem timeDiff_advance {c : Config} {b d : Nat} (hb : b < 2 ^ c.timeWidth) (hd : d < 2 ^ c.timeWidth) :
    timeDiff c ((b + d) % 2 ^ c.timeWidth) b = d := by
  calc timeDiff c ((b + d) % 2 ^ c.timeWidth) b
      = timeDiff c ((d + b) % 2 ^ c.timeWidth) ((0 + b) % 2 ^ c.timeWidth) := by
        rw [Nat.zero_add, Nat.mod_eq_of_lt hb, Nat.add_comm]
    _ = timeDiff c d 0 := timeDiff_delay c d 0 b
    _ = d := timeDiff_of_le hd d.zero_le

/-- Settles O17: on either side of the wrap the difference is one of naturals, and shifting both times leaves it as it is. -/
theorem timeDifferenceWraps : Obligations.TimeDifferenceWraps := by
  intro c a b ha hb
  refine ⟨?_, fun d hd => timeDiff_advance hb hd⟩
  split_ifs with h
  · exact timeDiff_of_le ha h
  · exact timeDiff_of_lt hb (Nat.lt_of_not_le h)

/-! ### What a shift of all times leaves in the state -/

variable (k : Nat) (s : State)

@[simp] theorem delay_cfg : (s.delay k).cfg = s.cfg := rfl
@[simp] theorem delay_regs : (s.delay k).regs = { s.regs with
    bitStartTime := (s.regs.bitStartTime + k) % 2 ^ s.cfg.timeWidth
    lineSetTime := (s.regs.lineSetTime + k) % 2 ^ s.cfg.timeWidth } := rfl
@[simp] theorem delay_arm : (s.delay k).arm = { s.arm with now := (s.arm.now + k) % 2 ^ s.cfg.timeWidth } := rfl

@[simp] theorem delayResult_next : delayResult k (.next s) = .next (s.delay k) := rfl
@[simp] theorem delayResult_fault (e : Fault) : delayResult k (.fault e) = .fault e := rfl
@[simp] theorem delayResult_refused (e : Refusal) : delayResult k (.refused e) = .refused e := rfl

@[simp] theorem portNow_delay : portNow (s.delay k) = (portNow s + k) % 2 ^ s.cfg.timeWidth := by
  simp [portNow, State.delay]

/-! The flags compare a difference of two times with a duration, or read no time. -/

@[simp] theorem measured_delay : measured (s.delay k) = measured s := timeDiff_delay ..

@[simp] theorem elapsedAt_delay (n : Nat) : elapsedAt (s.delay k) ((n + k) % 2 ^ s.cfg.timeWidth) = elapsedAt s n := by
  simp [elapsedAt]

@[simp] theorem settleMasks_delay (n : Nat) :
    settleMasks (s.delay k) ((n + k) % 2 ^ s.cfg.timeWidth) = settleMasks s n := by
  simp [settleMasks]

@[simp] theorem lineChanged_delay (l : Level) : lineChanged (s.delay k) l = lineChanged s l := rfl

@[simp] theorem isQuiet_delay (l : Level) (n : Nat) :
    isQuiet l ((n + k) % 2 ^ s.cfg.timeWidth) (s.delay k) = isQuiet l n s := by
  simp [isQuiet]

@[simp] theorem measuredBit_delay : measuredBit (s.delay k) = measuredBit s := by simp [measuredBit]
@[simp] theorem outOfTolerance_delay : outOfTolerance (s.delay k) = outOfTolerance s := by simp [outOfTolerance]

/-! ### The shared operations -/

theorem releaseLine_delay : releaseLine (s.delay k) = (releaseLine s).delay k := by
  cases h : s.regs.lineOut with
  | low => simp only [releaseLine, delay_regs, h]; rfl
  | high => simp only [releaseLine, delay_regs, h]

theorem abort_delay : abort (s.delay k) = (abort s).delay k :=
  congrArg (note .txArbitration) (releaseLine_delay k (toIdle s))

theorem noteTolerance_delay : noteTolerance (s.delay k) = (noteTolerance s).delay k := by
  simp only [noteTolerance_eq, outOfTolerance_delay]
  rfl

theorem noteOverflow_delay : noteOverflow (s.delay k) = (noteOverflow s).delay k := by
  simp only [noteOverflow_eq]
  rfl

theorem detect_delay (l : Level) (n : Nat) :
    detect l ((n + k) % 2 ^ s.cfg.timeWidth) (s.delay k) = (detect l n s).delay k := by
  have hobserve : observe l ((n + k) % 2 ^ s.cfg.timeWidth) (s.delay k) = (observe l n s).delay k := rfl
  have harb : inArbStates (s.delay k) = inArbStates s := rfl
  simp only [detect, hobserve, harb, lineChanged_delay, abort_delay, apply_ite (State.delay k)]

theorem prologue_delay (l : Level) (n : Nat) :
    prologue l ((n + k) % 2 ^ s.cfg.timeWidth) (s.delay k) = (prologue l n s).delay k := by
  have hlatch (u : State) (b : Bool) (hu : u.cfg = s.cfg) :
      latchArm l ((n + k) % 2 ^ s.cfg.timeWidth) b (u.delay k) = (latchArm l n b u).delay k := by
    rw [← hu]
    simp only [latchArm, elapsedAt_delay]
    rfl
  rw [prologue, detect_delay, hlatch _ _ (detect_cfg ..)]
  rfl

/-! ### Operations that can stop -/

/-- Moving the times on before the operation `f` is moving its outcome on after it. -/
def CommutesWithDelay (f : State → Result) : Prop := ∀ (k : Nat) (s : State), f (s.delay k) = delayResult k (f s)

theorem delayResult_withByte (c : Config) (m : Memory) (i : Nat) (f : Byte → Result) :
    delayResult k (withByte c m i f) = withByte c m i fun b => delayResult k (f b) := by
  rw [withByte_eq, withByte_eq, apply_ite (delayResult k), delayResult_fault]

theorem delayResult_withBytes (c : Config) (m : Memory) (n : Nat) (f : List Byte → Result) :
    delayResult k (withBytes c m n f) = withBytes c m n fun bs => delayResult k (f bs) := by
  rw [withBytes_eq, withBytes_eq, apply_ite (delayResult k), delayResult_fault]

theorem delayResult_withRoom (c : Config) (n : Nat) (r : Result) :
    delayResult k (withRoom c n r) = withRoom c n (delayResult k r) := apply_ite (delayResult k) ..

theorem delayResult_andThen {f : State → Result} (hf : CommutesWithDelay f) (r : Result) :
    andThen (delayResult k r) f = delayResult k (andThen r f) := by
  cases r with
  | next u => exact hf k u
  | fault e => rfl
  | refused e => rfl

theorem CommutesWithDelay.andThen {f g : State → Result} (hf : CommutesWithDelay f) (hg : CommutesWithDelay g) :
    CommutesWithDelay fun s => andThen (f s) g := fun k s => by
  simp only [hf k s, delayResult_andThen k hg]

/-- A choice that no time decides. -/
theorem CommutesWithDelay.ite {b : State → Prop} [DecidablePred b] {f g : State → Result}
    (hf : CommutesWithDelay f) (hg : CommutesWithDelay g)
    (hb : ∀ k s, b (State.delay k s) ↔ b s := by exact fun _ _ => Iff.rfl) :
    CommutesWithDelay fun s => if b s then f s else g s := fun k s => by
  simp only [hb, hf k s, hg k s, apply_ite (delayResult k)]

/-- An update that reads no time but the arm's, after which nothing stops. -/
theorem CommutesWithDelay.next {f : State → State}
    (hf : ∀ k s, f (State.delay k s) = (f s).delay k := by exact fun _ _ => rfl) :
    CommutesWithDelay fun s => .next (f s) := fun k s => congrArg Host.Outcome.next (hf k s)

theorem toIdle_commutes : CommutesWithDelay fun s => .next (toIdle s) := .next

theorem shiftIn_commutes (b : Bool) : CommutesWithDelay (shiftIn b) := fun k s => by
  rw [shiftIn, shiftIn, delayResult_withByte]
  rfl

theorem deliver_commutes : CommutesWithDelay deliver :=
  .ite (fun k s => by rw [delayResult_withBytes]; rfl) toIdle_commutes

theorem endBlock_commutes (ends : Bool) : CommutesWithDelay (endBlock ends) :=
  .ite deliver_commutes .next

theorem stageProbe_commutes (a : LogAddr) : CommutesWithDelay (stageProbe a) := fun k s => by
  rw [stageProbe, stageProbe, delayResult_withRoom]
  rfl

theorem allocClaim_commutes : CommutesWithDelay allocClaim := fun k s => by
  have hlist : (candidatesFor (s.delay k))[(s.delay k).regs.candIdx]? = (candidatesFor s)[s.regs.candIdx]? := rfl
  simp only [allocClaim, hlist]
  cases (candidatesFor s)[s.regs.candIdx]? <;> rfl

theorem allocAdvance_eq_fault (h : (candidatesFor s)[s.regs.candIdx + 1]? = none) :
    allocAdvance s = .fault (.candidateIndex (s.regs.candIdx + 1)) := by
  have hlist : (candidatesFor { s with regs := { s.regs with candIdx := s.regs.candIdx + 1 } })[s.regs.candIdx + 1]? =
    none := h
  simp only [allocAdvance, hlist]

theorem allocAdvance_commutes : CommutesWithDelay allocAdvance := fun k s => by
  cases h : (candidatesFor s)[s.regs.candIdx + 1]? with
  | none => rw [allocAdvance_eq_fault s h, allocAdvance_eq_fault (s.delay k) h]; rfl
  | some a =>
    rw [allocAdvance_eq s h, allocAdvance_eq (s.delay k) h, delay_cfg]
    split_ifs
    · rfl
    · exact stageProbe_commutes a k { s with regs := { s.regs with candIdx := s.regs.candIdx + 1 } }

theorem stepIfAllocating_commutes (probeAcked : Bool) : CommutesWithDelay (stepIfAllocating probeAcked) :=
  .ite (.ite allocAdvance_commutes allocClaim_commutes) .next

theorem reportAndDrop_commutes (b : Bool) : CommutesWithDelay (reportAndDrop b) := fun k s => by
  rw [reportAndDrop, reportAndDrop, delayResult_withBytes]
  rfl

theorem failAttempt_commutes : CommutesWithDelay failAttempt :=
  .ite
    (.andThen (fun k s => reportAndDrop_commutes false k (note .txProbeNak (markInitiator s)))
      (stepIfAllocating_commutes false))
    (.ite .next fun k s => reportAndDrop_commutes false k (note .txNakFinal (markInitiator s)))

theorem succeed_commutes : CommutesWithDelay succeed :=
  .andThen (fun k s => reportAndDrop_commutes true k (markInitiator s)) (stepIfAllocating_commutes true)

theorem resolveByte_commutes : CommutesWithDelay resolveByte :=
  .ite (.andThen failAttempt_commutes toIdle_commutes)
    (.ite (.andThen succeed_commutes toIdle_commutes) (.next fun k s => by
      cases h : s.arm.line with
      | low => simp only [nextBlock, delay_arm, h]; rfl
      | high => simp only [nextBlock, delay_arm, h]; rfl))

theorem sendDataBit_commutes : CommutesWithDelay sendDataBit := fun k s => by
  rw [sendDataBit, withTxBit, sendDataBit, withTxBit, delayResult_withByte]
  rfl

/-! ### The arms that can stop, and RUN -/

theorem execArmRcvDatabit1_commutes : CommutesWithDelay execArmRcvDatabit1 :=
  .ite (.andThen (fun k s => by rw [measuredBit_delay, noteTolerance_delay, shiftIn_commutes]) .next)
    (.ite .next .next)

theorem execArmRcvEom1_commutes : CommutesWithDelay execArmRcvEom1 :=
  .ite
    (fun k s => by
      have hinspect (b : Bool) (u : State) : inspectHeader b (u.delay k) = (inspectHeader b u).delay k := rfl
      rw [delayResult_withRoom, measuredBit_delay, noteTolerance_delay, hinspect, noteOverflow_delay]
      rfl)
    (.ite .next .next)

theorem execArmRcvAckSent_commutes : CommutesWithDelay execArmRcvAckSent :=
  .ite (fun k s => endBlock_commutes (s.regs.rxEom || s.regs.rxNak) k (setLine .high s)) .next

theorem execArmRcvAck1_commutes : CommutesWithDelay execArmRcvAck1 :=
  .ite
    (fun k s => by
      rw [measuredBit_delay, noteTolerance_delay]
      exact endBlock_commutes _ k (noteTolerance s))
    (.ite .next .next)

theorem execArmXmitStartbit2_commutes : CommutesWithDelay execArmXmitStartbit2 :=
  .ite (fun k s => by rw [withTxBit, withTxBit, delayResult_withByte]; rfl) .next

theorem execArmXmitDatabit2_commutes : CommutesWithDelay execArmXmitDatabit2 :=
  .ite
    (.ite .next fun k s =>
      sendDataBit_commutes k (beginLow { s with regs := { s.regs with txBitIndex := s.regs.txBitIndex + 1 } }))
    .next

theorem execArmXmitAckTest_commutes : CommutesWithDelay execArmXmitAckTest :=
  .ite (fun k s => by rw [resolveByte_commutes, delayResult_withRoom]; rfl) .next

theorem execArmXmitAck2_commutes : CommutesWithDelay execArmXmitAck2 :=
  .ite (fun k s => sendDataBit_commutes k (beginLow s)) .next

/-- Every arm commutes. One that cannot stop is a tree of choices by flags, which read only differences of times, and updates. -/
theorem exec_arm_commutes (p : Phase) : CommutesWithDelay (exec p.arm) := by
  cases p
  case idle => exact .ite .next (.ite .next .next)
  case rcvStartbit1 => exact .ite (.ite .next .next (by simp)) (.ite .next .next)
  case rcvStartbit2 => exact .ite (.ite .next .next (by simp)) (.ite .next .next)
  case rcvDatabit1 => exact execArmRcvDatabit1_commutes
  case rcvDatabit2 => exact .ite .next (.ite .next .next)
  case rcvEom1 => exact execArmRcvEom1_commutes
  case rcvEom2 => exact .ite (.ite .next .next) (.ite .next .next)
  case rcvAckSent => exact execArmRcvAckSent_commutes
  case rcvAck1 => exact execArmRcvAck1_commutes
  case rcvAck2 => exact .ite .next (.ite .next .next)
  case rcvLineerror => exact .ite .next .next
  case xmitWait => exact .ite .next .next
  case xmitStartbit1 => exact .ite .next .next
  case xmitStartbit2 => exact execArmXmitStartbit2_commutes
  case xmitDatabit1 => exact .ite .next .next
  case xmitDatabit2 => exact execArmXmitDatabit2_commutes
  case xmitEom1 => exact .ite .next .next
  case xmitEom2 => exact .ite .next .next
  case xmitAck1 => exact .ite .next .next
  case xmitAckTest => exact execArmXmitAckTest_commutes
  case xmitAckWait => exact .ite .next .next
  case xmitAck2 => exact execArmXmitAck2_commutes

theorem dispatchArm_commutes : CommutesWithDelay dispatchArm := fun k s => by
  cases h : decodePhase s.regs.st with
  | none => simp only [dispatchArm, delay_regs, h, delayResult_refused]
  | some p =>
    have hp := decodePhase_eq_some h
    rw [dispatchArm_eq_exec s hp, dispatchArm_eq_exec (s.delay k) hp, exec_arm_commutes p k s]

theorem runStep_delay (l : Level) (n : Nat) :
    runStep l ((n + k) % 2 ^ s.cfg.timeWidth) (s.delay k) = delayResult k (runStep l n s) := by
  rw [runStep, runStep, isQuiet_delay, prologue_delay, dispatchArm_commutes, apply_ite (delayResult k), delayResult_next]

theorem execRun_commutes (l : Level) : CommutesWithDelay (execRun l) := by
  refine .ite (fun _ _ => rfl) fun k s => ?_
  rw [portNow_delay, runStep_delay]
  cases h : decodePhase s.regs.st <;> simp only [delay_regs, h, delayResult_refused]

/-- Settles O18: the settle, change and budget tests read differences of times only, and so does every arm. -/
theorem runIsTimeTranslationInvariant : Obligations.RunIsTimeTranslationInvariant :=
  fun k l s => execRun_commutes l k s

end Sys2Proof.Machine
end

section
/-! PROOF. Every step keeps the invariant of Safety.lean. The part of it that does not depend on the protocol state is kept by
each register update; an update that enters a protocol state then has the rest of the invariant to show for that state alone. -/

namespace Sys2Proof.Machine

/-! ### The invariant in two parts -/

/-- The part of the invariant that does not depend on the protocol state, for an initialised block with legal parameters. -/
structure Regs.Sound (c : Config) (r : Regs) : Prop extends BuffersOk c r, CountersOk c r, AllocatorOk c r where
  legal       : c.ok = true
  initialized : r.initialized = true
  bitStart    : r.bitStartTime < 2 ^ c.timeWidth
  lineSet     : r.lineSetTime < 2 ^ c.timeWidth
  listens     : r.monitor = true → r.la = none ∧ r.txByteCount = 0
  follows     : ¬(r.rxFollower = true ∧ r.rxBroadcast = true)

variable {c : Config} {r : Regs} {p : Phase} {s t : State} {d : Nat}

theorem Regs.InvAt.sound (h : r.InvAt c p) (hc : c.ok = true) (hi : r.initialized = true) : r.Sound c :=
  { h.buffers, h.counters, h.allocator with
    legal := hc
    initialized := hi
    bitStart := h.timers.bitStart
    lineSet := h.timers.lineSet
    listens := fun hm => have ⟨hla, hcount, _⟩ := h.line.monitor hm; ⟨hla, hcount⟩
    follows := h.line.follows }

/-- What is left to show of the invariant in protocol state `p`. -/
theorem Regs.Sound.invAt (h : r.Sound c) (state : r.st = p.code)
    (budget : ∀ d, r.waitTime = some d → d < 2 ^ c.timeWidth) (idle : p = .idle → r.waitTime = some 0)
    (forever : r.waitTime = none ↔ waitsForever p = true) (drive : r.lineOut = .low ↔ holdsLow p = true)
    (monitor : r.monitor = true → holdsLow p = false ∧ isTransmit p = false)
    (rx : rxPosition c r p) (tx : txPosition r p) : r.InvAt c p where
  state := state
  inert hi := nomatch h.initialized.symm.trans hi
  buffers := h.toBuffersOk
  counters := h.toCountersOk
  timers := ⟨h.bitStart, h.lineSet, budget, idle, forever⟩
  allocator := h.toAllocatorOk
  line := ⟨drive, fun hm => ⟨(h.listens hm).1, (h.listens hm).2, monitor hm⟩, h.follows⟩
  rx := rx
  tx := tx

theorem Regs.InvAt.released (h : r.InvAt c p) (hp : holdsLow p = false) : r.lineOut = .high := by
  cases ho : r.lineOut with
  | high => rfl
  | low => exact nomatch hp.symm.trans (h.line.drive.1 ho)

theorem Regs.InvAt.transmits (h : r.InvAt c p) (hp : isTransmit p = true) : r.monitor = false := by
  cases hm : r.monitor with
  | false => rfl
  | true =>
    obtain ⟨-, -, -, htx⟩ := h.line.monitor hm
    exact nomatch hp.symm.trans htx

theorem cap_pos (hc : c.ok = true) : 0 < c.cap := by
  have := maxPayload_add_one hc
  omega

/-- A block in a transmit state has a frame pending (R33). -/
theorem pending_of_isTransmit (hp : isTransmit p = true) (h : txPosition r p) : 0 < r.txByteCount := by
  cases p <;> simp only [isTransmit, Bool.false_eq_true, txPosition] at hp h <;> omega

theorem txPosition_of_not_isTransmit (h : isTransmit p = false) : txPosition r p := by
  cases p <;> trivial

theorem rxPosition_of_isTransmit (h : isTransmit p = true) : rxPosition c r p := by
  cases p <;> trivial

/-! ### The updates that keep the first part -/

theorem Regs.Sound.goto (h : s.regs.Sound s.cfg) (w : Option Nat) : (goto p w s).regs.Sound s.cfg := { h with }

theorem Regs.Sound.markBitStart (h : s.regs.Sound s.cfg) (hn : s.arm.now < 2 ^ s.cfg.timeWidth) :
    (markBitStart s).regs.Sound s.cfg := { h with bitStart := hn }

theorem Regs.Sound.setLine (h : s.regs.Sound s.cfg) (hn : s.arm.now < 2 ^ s.cfg.timeWidth) (v : Level) :
    (setLine v s).regs.Sound s.cfg := { h with lineSet := hn }

theorem Regs.Sound.beginLow (h : s.regs.Sound s.cfg) (hn : s.arm.now < 2 ^ s.cfg.timeWidth) :
    (beginLow s).regs.Sound s.cfg := { h with bitStart := hn, lineSet := hn }

theorem Regs.Sound.markInitiator (h : s.regs.Sound s.cfg) : (markInitiator s).regs.Sound s.cfg := { h with }

theorem Regs.Sound.txBitIndex (h : r.Sound c) (i : Nat) : { r with txBitIndex := i }.Sound c := { h with }

theorem Regs.Sound.noteTolerance (h : s.regs.Sound s.cfg) : (noteTolerance s).regs.Sound s.cfg := by
  rw [noteTolerance_regs]
  exact { h with }

theorem Regs.Sound.noteOverflow (h : s.regs.Sound s.cfg) : (noteOverflow s).regs.Sound s.cfg := by
  rw [noteOverflow_regs]
  exact { h with }

/-- A frame is a broadcast, or its destination is this device's address, not both (R84). -/
theorem Regs.Sound.inspectHeader (h : s.regs.Sound s.cfg) (eom : Bool) : (inspectHeader eom s).regs.Sound s.cfg :=
  { h with
    follows := by
      intro ⟨hf, hb⟩
      simp only [inspectHeader_regs, isFollower] at hf hb
      simp [hb] at hf }

theorem Regs.Sound.shiftIn {b : Bool} (h : s.regs.Sound s.cfg) (hroom : s.regs.rxBitCount < 8 * s.cfg.cap)
    (ht : shiftIn b s = .next t) : t.regs.Sound s.cfg := by
  cases shiftIn_next ht
  have hdiv : s.regs.rxBitCount >>> 3 = s.regs.rxBitCount / 8 := Nat.shiftRight_eq_div_pow ..
  have hread (i : Nat) (hi : s.regs.rxBitCount / 8 < i) (v : Byte) :
      (s.regs.rxBuf.write (s.regs.rxBitCount >>> 3) v).read i = s.regs.rxBuf.read i := by
    rw [Memory.read_write _ _ _ _ h.rxWf, if_neg (by omega)]
  exact { h with
    rxWf := Memory.write_wf _ _ _ h.rxWf
    rxTail := fun i (hi : s.regs.rxBitCount + 1 ≤ 8 * i) => by rw [hread i (by omega), h.rxTail i (by omega)]
    rxIn := fun i hi => by rw [hread i (by omega), h.rxIn i hi]
    rxBits := hroom }

/-- A frame of at most CAP bytes staged in the transmit buffer, header first (R113, R121). -/
theorem BuffersOk.stage (h : BuffersOk c r) (b : Byte) (bs : List Byte) (hlen : bs.length + 1 ≤ c.cap) :
    BuffersOk c { r with txBuf := (r.txBuf.write 0 b).writeList 1 bs } where
  rxWf := h.rxWf
  rxTail := h.rxTail
  rxIn := h.rxIn
  txWf := Memory.writeList_wf _ _ _ (Memory.write_wf _ _ _ h.txWf)
  txIn i hi := by
    rw [Memory.read_writeList _ _ _ _ (Memory.write_wf _ _ _ h.txWf), if_neg (by omega),
      Memory.read_write _ _ _ _ h.txWf, if_neg (by omega), h.txIn i hi]

/-- The probe of a candidate before the last of the list is staged (R112, R114). -/
theorem Regs.Sound.stageProbe {i : Nat} {a : LogAddr} {b : Bool} (h : r.Sound c) (hb : b = true) (hla : r.la = none)
    (hm : r.monitor = false) (ha : (c.candidatesOf r.devType)[i]? = some a) (hne : a ≠ c.laUnregistered) :
    { r with allocating := b, candIdx := i, txBuf := r.txBuf.write 0 (header a a), txByteCount := 1, retry := 0 }.Sound c :=
  { h.toBuffersOk.stage (header a a) [] (cap_pos h.legal), h with
    txBytes := cap_pos h.legal
    retries := Nat.zero_le _
    cand := .inr (List.getElem?_eq_some_iff.1 ha).1
    probing := fun _ => ⟨hla, hm, rfl, a, ha, hne, by rw [Memory.read_write _ _ _ _ h.txWf, if_pos rfl]⟩
    claimed := fun a' ha' => nomatch hla.symm.trans ha'
    unclaimed := fun _ hb' => nomatch hb.symm.trans hb'
    source := fun a' ha' => nomatch hla.symm.trans ha'
    listens := fun hm' => nomatch hm.symm.trans hm' }

/-- The current candidate becomes the address, its probe being dropped (R115, R116). -/
theorem Regs.Sound.takeAddress {i : Nat} {a : LogAddr} (h : r.Sound c) (hm : r.monitor = false)
    (ha : (c.candidatesOf r.devType)[i]? = some a) :
    { r with candIdx := i, txByteCount := 0, la := some a, allocating := false }.Sound c :=
  { h with
    txBytes := Nat.zero_le _
    cand := .inr (List.getElem?_eq_some_iff.1 ha).1
    probing := fun hal => nomatch hal
    claimed := fun _ ha' => Option.some.inj ha' ▸ ha
    unclaimed := fun hla => nomatch hla
    source := fun _ _ h0 => absurd h0 (Nat.lt_irrefl 0)
    listens := fun hm' => nomatch hm.symm.trans hm' }

/-- Outside the allocation a frame can be dropped (R108, R109). -/
theorem Regs.Sound.dropFrame (h : s.regs.Sound s.cfg) (hal : s.regs.allocating = false) :
    (dropFrame s).regs.Sound s.cfg :=
  { h with
    txBytes := Nat.zero_le _
    probing := fun hal' => nomatch hal.symm.trans hal'
    unclaimed := fun _ _ => rfl
    source := fun _ _ h0 => absurd h0 (Nat.lt_irrefl 0)
    listens := fun hm => ⟨(h.listens hm).1, rfl⟩ }

/-- The resolution of an attempt: the frame is dropped, and the allocator steps where it was its probe (R108, R109, R114). -/
theorem Regs.Sound.resolve {probeAcked : Bool} (h : s.regs.Sound s.cfg)
    (ht : stepIfAllocating probeAcked (Machine.dropFrame s) = .next t) :
    t.regs.Sound t.cfg ∧ t.regs.lineOut = s.regs.lineOut := by
  rcases stepIfAllocating_next ht with
    ⟨hal, rfl⟩ | ⟨hal, -, a, ha, rfl⟩ | ⟨hal, -, a, ha, -, rfl⟩ | ⟨hal, -, a, ha, hne, rfl⟩
  · exact ⟨h.dropFrame hal, rfl⟩
  all_goals obtain ⟨hla, hm, -⟩ := h.probing hal
  · exact ⟨h.takeAddress hm ha, rfl⟩
  · exact ⟨h.takeAddress hm ha, rfl⟩
  · exact ⟨h.stageProbe hal hla hm ha hne, rfl⟩

theorem Regs.Sound.failAttempt (h : s.regs.Sound s.cfg) (ht : failAttempt s = .next t) :
    t.regs.Sound t.cfg ∧ t.regs.lineOut = s.regs.lineOut := by
  rcases failAttempt_next ht with ⟨-, ht⟩ | ⟨-, hlt, rfl⟩ | ⟨hcount, -, rfl⟩
  · exact Regs.Sound.resolve (s := emit _ (note _ (Machine.markInitiator s))) h.markInitiator ht
  · exact ⟨{ h with retries := hlt }, rfl⟩
  · have hal : s.regs.allocating = false := by
      by_contra hal
      exact hcount (h.probing (by simpa using hal)).2.2.1
    exact ⟨Regs.Sound.dropFrame (s := emit _ (note _ (Machine.markInitiator s))) h.markInitiator hal, rfl⟩

theorem Regs.Sound.succeed (h : s.regs.Sound s.cfg) (ht : succeed s = .next t) :
    t.regs.Sound t.cfg ∧ t.regs.lineOut = s.regs.lineOut :=
  Regs.Sound.resolve (s := emit _ (Machine.markInitiator s)) h.markInitiator (succeed_next ht)

/-! ### Entering a protocol state -/

theorem goto_inv {w : Option Nat} (h : s.regs.Sound s.cfg) (budget : ∀ d, w = some d → d < 2 ^ s.cfg.timeWidth)
    (idle : p = .idle → w = some 0) (forever : w = none ↔ waitsForever p = true)
    (drive : s.regs.lineOut = .low ↔ holdsLow p = true)
    (monitor : s.regs.monitor = true → holdsLow p = false ∧ isTransmit p = false)
    (rx : rxPosition s.cfg s.regs p) (tx : txPosition s.regs p) : (goto p w s).Inv :=
  ⟨h.legal, p, (h.goto w).invAt rfl budget idle forever drive monitor (by cases p <;> exact rx) (by cases p <;> exact tx)⟩

theorem Regs.Sound.invAt_idle (h : r.Sound c) (hst : r.st = Phase.code .idle) (hw : r.waitTime = some 0)
    (hout : r.lineOut = .high) : r.InvAt c .idle :=
  h.invAt hst (fun d hd => Option.some.inj (hw.symm.trans hd) ▸ Nat.two_pow_pos _) (fun _ => hw)
    (by simp [hw, waitsForever]) (by simp [hout, holdsLow]) (fun _ => ⟨rfl, rfl⟩) trivial trivial

theorem toIdle_inv (h : s.regs.Sound s.cfg) (hout : s.regs.lineOut = .high) : (toIdle s).Inv :=
  ⟨h.legal, .idle, (h.goto (some 0)).invAt_idle rfl rfl hout⟩

theorem lineError_inv (h : s.regs.Sound s.cfg) (hout : s.regs.lineOut = .high) : (lineError s).Inv :=
  show (goto .rcvLineerror none s).Inv from
    goto_inv h (fun _ hd => nomatch hd) (fun hp => nomatch hp) (by decide) (by simp [hout, holdsLow])
      (fun _ => ⟨rfl, rfl⟩) trivial trivial

/-- The protocol states in which an attempt or a frame waits for a deadline (R68): not `IDLE`, and not the two without one. -/
def isTimed (p : Phase) : Bool := decide (p ≠ .idle) && !waitsForever p

theorem timed_inv (h : s.regs.Sound s.cfg) (hp : isTimed p = true) (hd : d ∈ s.cfg.budgets)
    (drive : s.regs.lineOut = .low ↔ holdsLow p = true)
    (monitor : s.regs.monitor = true → holdsLow p = false ∧ isTransmit p = false)
    (rx : rxPosition s.cfg s.regs p) (tx : txPosition s.regs p) : (goto p (some d) s).Inv := by
  simp only [isTimed, Bool.and_eq_true, decide_eq_true_eq, Bool.not_eq_true'] at hp
  refine goto_inv h ?_ (fun hi => absurd hi hp.1) (by simp [hp.2]) drive monitor rx tx
  rintro _ ⟨⟩
  exact budget_lt h.legal hd

/-- A receive state with the line released. -/
theorem listen_inv (h : s.regs.Sound s.cfg) (hout : s.regs.lineOut = .high) (rx : rxPosition s.cfg s.regs p)
    (hd : d ∈ s.cfg.budgets := by simp [Config.budgets])
    (hp : (isTimed p && !holdsLow p && !isTransmit p) = true := by decide) : (goto p (some d) s).Inv := by
  simp only [Bool.and_eq_true, Bool.not_eq_true'] at hp
  obtain ⟨⟨htimed, hlow⟩, htx⟩ := hp
  exact timed_inv h htimed hd (by simp [hout, hlow]) (fun _ => ⟨hlow, htx⟩) rx (txPosition_of_not_isTransmit htx)

/-- A transmit state, in which no monitor stands. -/
theorem send_inv (h : s.regs.Sound s.cfg) (hm : s.regs.monitor = false) (drive : s.regs.lineOut = .low ↔ holdsLow p = true)
    (tx : txPosition s.regs p) (hd : d ∈ s.cfg.budgets := by simp [Config.budgets])
    (hp : (isTimed p && isTransmit p) = true := by decide) : (goto p (some d) s).Inv := by
  simp only [Bool.and_eq_true] at hp
  exact timed_inv h hp.1 hd drive (fun hm' => nomatch hm.symm.trans hm') (rxPosition_of_isTransmit hp.2) tx

theorem lowFor_mem_budgets (c : Config) (b : Bool) : lowFor c b ∈ c.budgets := by
  cases b <;> simp [lowFor, Config.budgets]

theorem freeTime_mem_budgets (s : State) : freeTime s ∈ s.cfg.budgets := by
  unfold freeTime
  split_ifs <;> simp [Config.budgets]

/-! ### The receive arms -/

/-- A full buffer goes on to the ACK bit only with EOM = 1 or a forced negative acknowledgement (R84). -/
theorem noteOverflow_full (s : State) (hfull : s.regs.rxBitCount = 8 * s.cfg.cap) :
    s.regs.rxEom = true ∨ (noteOverflow s).regs.rxNak = true := by
  cases heom : s.regs.rxEom <;> simp [overflows, hfull, heom]

section Arms

variable (h : s.regs.Sound s.cfg) (hn : s.arm.now < 2 ^ s.cfg.timeWidth)
include h

theorem abandon_inv {x : Cause} (hout : s.regs.lineOut = .high) : (abandon x s).Inv :=
  show (toIdle s).Inv from toIdle_inv h hout

/-- After an ACK bit: the next block fits the buffer (R84, R87, R88). -/
theorem endBlock_inv {ends : Bool} (hout : s.regs.lineOut = .high) (h8 : 8 ≤ s.regs.rxBitCount)
    (hmod : s.regs.rxBitCount % 8 = 0) (hroom : ends = false → s.regs.rxBitCount < 8 * s.cfg.cap)
    (ht : endBlock ends s = .next t) : t.Inv := by
  cases ends with
  | false =>
    cases ht
    exact listen_inv (p := .rcvAck2) h hout ⟨h8, hmod, hroom rfl⟩
  | true =>
    cases deliver_next (show deliver s = .next t from ht)
    split_ifs
    · exact toIdle_inv (s := emit _ s) h hout
    · exact toIdle_inv h hout

include hn in
theorem execArmIdle_inv (hs : s.regs.InvAt s.cfg .idle) (ht : execArmIdle s = .next t) : t.Inv := by
  have hout := hs.released rfl
  unfold execArmIdle at ht
  split_ifs at ht with hstart hsend <;> cases ht
  · exact listen_inv (p := .rcvStartbit1)
      { h with
        rxWf := rfl, rxTail := fun _ _ => rfl, rxIn := fun _ _ => rfl, rxBits := Nat.zero_le _, bitStart := hn
        follows := fun hf => nomatch hf.1 }
      hout rfl
  · exact send_inv (p := .xmitWait) (h.markBitStart hn) hsend.2.2 hs.line.drive hsend.2.1 (freeTime_mem_budgets s)
  · exact ⟨h.legal, _, hs⟩

theorem execArmRcvStartbit1_inv (hs : s.regs.InvAt s.cfg .rcvStartbit1) (ht : execArmRcvStartbit1 s = .next t) : t.Inv := by
  have hout := hs.released rfl
  unfold execArmRcvStartbit1 at ht
  split_ifs at ht <;> cases ht
  · exact listen_inv (p := .rcvStartbit2) h hout hs.rx
  · exact abandon_inv h hout
  · exact abandon_inv h hout
  · exact ⟨h.legal, _, hs⟩

include hn in
theorem execArmRcvStartbit2_inv (hs : s.regs.InvAt s.cfg .rcvStartbit2) (ht : execArmRcvStartbit2 s = .next t) : t.Inv := by
  have hout := hs.released rfl
  have hrx : s.regs.rxBitCount = 0 := hs.rx
  have hcap := cap_pos h.legal
  unfold execArmRcvStartbit2 at ht
  split_ifs at ht <;> cases ht
  · exact listen_inv (p := .rcvDatabit1) (h.markBitStart hn) hout (show s.regs.rxBitCount < 8 * s.cfg.cap by omega)
  · exact abandon_inv h hout
  · exact abandon_inv h hout
  · exact ⟨h.legal, _, hs⟩

theorem execArmRcvDatabit1_inv (hs : s.regs.InvAt s.cfg .rcvDatabit1) (ht : execArmRcvDatabit1 s = .next t) : t.Inv := by
  have hout := hs.released rfl
  unfold execArmRcvDatabit1 at ht
  split_ifs at ht
  · obtain ⟨u, hu, ht⟩ := andThen_eq_next.1 ht
    have hroom : s.regs.rxBitCount < 8 * s.cfg.cap := hs.rx
    have hsound := Regs.Sound.shiftIn (s := noteTolerance s) (by simpa using h.noteTolerance) (by simpa using hroom) hu
    cases shiftIn_next hu
    cases ht
    exact listen_inv (p := .rcvDatabit2) hsound (by simpa using hout) (Nat.le_add_left ..)
  · cases ht
    exact lineError_inv h hout
  · cases ht
    exact ⟨h.legal, _, hs⟩

include hn in
theorem execArmRcvDatabit2_inv (hs : s.regs.InvAt s.cfg .rcvDatabit2) (ht : execArmRcvDatabit2 s = .next t) : t.Inv := by
  have hout := hs.released rfl
  have hrx : 1 ≤ s.regs.rxBitCount := hs.rx
  have hle := h.rxBits
  unfold execArmRcvDatabit2 at ht
  split_ifs at ht with hc hmod <;> cases ht
  · exact listen_inv (p := .rcvEom1) (h.markBitStart hn) hout
      (show 8 ≤ s.regs.rxBitCount ∧ s.regs.rxBitCount % 8 = 0 by omega)
  · exact listen_inv (p := .rcvDatabit1) (h.markBitStart hn) hout (show s.regs.rxBitCount < 8 * s.cfg.cap by omega)
  · exact abandon_inv h hout
  · exact ⟨h.legal, _, hs⟩

theorem execArmRcvEom1_inv (hs : s.regs.InvAt s.cfg .rcvEom1) (ht : execArmRcvEom1 s = .next t) : t.Inv := by
  have hout := hs.released rfl
  obtain ⟨h8, hmod⟩ : 8 ≤ s.regs.rxBitCount ∧ s.regs.rxBitCount % 8 = 0 := hs.rx
  unfold execArmRcvEom1 at ht
  split_ifs at ht
  · cases (withRoom_eq_next.1 ht).2
    have hsound : (inspectHeader (measuredBit s) (noteTolerance s)).regs.Sound s.cfg := by
      simpa using Regs.Sound.inspectHeader (s := noteTolerance s) (by simpa using h.noteTolerance) (measuredBit s)
    have hfull := noteOverflow_full (inspectHeader (measuredBit s) (noteTolerance s))
    refine listen_inv (p := .rcvEom2) ?_ (by simpa using hout) ?_
    · simpa using Regs.Sound.noteOverflow (s := inspectHeader (measuredBit s) (noteTolerance s)) (by simpa using hsound)
    · simpa [rxPosition, h8, hmod] using hfull
  · cases ht
    exact lineError_inv h hout
  · cases ht
    exact ⟨h.legal, _, hs⟩

include hn in
theorem execArmRcvEom2_inv (hs : s.regs.InvAt s.cfg .rcvEom2) (ht : execArmRcvEom2 s = .next t) : t.Inv := by
  have hout := hs.released rfl
  unfold execArmRcvEom2 at ht
  split_ifs at ht with hc hdrive <;> cases ht
  · have hm := (ackDrive_iff.1 hdrive).1
    exact timed_inv (p := .rcvAckSent) (h.beginLow hn) rfl (by simp [Config.budgets]) (by simp [holdsLow])
      (fun hm' => nomatch hm.symm.trans hm') hs.rx trivial
  · exact listen_inv (p := .rcvAck1) (h.markBitStart hn) hout hs.rx
  · exact abandon_inv h hout
  · exact ⟨h.legal, _, hs⟩

include hn in
theorem execArmRcvAckSent_inv (hs : s.regs.InvAt s.cfg .rcvAckSent) (ht : execArmRcvAckSent s = .next t) : t.Inv := by
  obtain ⟨h8, hmod, hfull⟩ := hs.rx
  unfold execArmRcvAckSent at ht
  split_ifs at ht
  · refine endBlock_inv (s := setLine .high s) (h.setLine hn .high) rfl h8 hmod (fun hends => ?_) ht
    rw [Bool.or_eq_false_iff] at hends
    refine lt_of_le_of_ne h.rxBits fun he => ?_
    simpa [hends] using hfull he
  · cases ht
    exact ⟨h.legal, _, hs⟩

theorem execArmRcvAck1_inv (hs : s.regs.InvAt s.cfg .rcvAck1) (ht : execArmRcvAck1 s = .next t) : t.Inv := by
  have hout := hs.released rfl
  obtain ⟨h8, hmod, hfull⟩ := hs.rx
  unfold execArmRcvAck1 at ht
  split_ifs at ht
  · refine endBlock_inv (s := noteTolerance s) (by simpa using h.noteTolerance) (by simpa using hout) (by simpa using h8)
      (by simpa using hmod) (fun hends => ?_) ht
    simp only [noteTolerance_regs, noteTolerance_cfg, Bool.or_eq_false_iff] at hends ⊢
    refine lt_of_le_of_ne h.rxBits fun he => ?_
    simpa [hends] using hfull he
  · cases ht
    exact lineError_inv h hout
  · cases ht
    exact ⟨h.legal, _, hs⟩

include hn in
theorem execArmRcvAck2_inv (hs : s.regs.InvAt s.cfg .rcvAck2) (ht : execArmRcvAck2 s = .next t) : t.Inv := by
  have hout := hs.released rfl
  obtain ⟨-, -, hroom⟩ := hs.rx
  unfold execArmRcvAck2 at ht
  split_ifs at ht <;> cases ht
  · exact listen_inv (p := .rcvDatabit1) (h.markBitStart hn) hout hroom
  · exact abandon_inv h hout
  · exact ⟨h.legal, _, hs⟩

theorem execArmRcvLineerror_inv (hs : s.regs.InvAt s.cfg .rcvLineerror) (ht : execArmRcvLineerror s = .next t) : t.Inv := by
  unfold execArmRcvLineerror at ht
  split_ifs at ht <;> cases ht
  · exact toIdle_inv h (hs.released rfl)
  · exact ⟨h.legal, _, hs⟩

/-! ### The transmit arms -/

include hn in
theorem releaseTo_inv {q : Phase} (hs : s.regs.InvAt s.cfg p) (ht : releaseTo q d s = .next t) (tx : txPosition s.regs q)
    (hd : d ∈ s.cfg.budgets := by simp [Config.budgets])
    (hpq : isTransmit p = true ∧ holdsLow q = false ∧ (isTimed q && isTransmit q) = true := by decide) : t.Inv := by
  obtain ⟨hp, hlow, hq⟩ := hpq
  unfold releaseTo at ht
  split_ifs at ht <;> cases ht
  · exact send_inv (h.setLine hn .high) (hs.transmits hp) (by simp [hlow]) (by cases q <;> exact tx) hd hq
  · exact ⟨h.legal, _, hs⟩

theorem sendDataBit_inv (hm : s.regs.monitor = false) (hout : s.regs.lineOut = .low)
    (tx : s.regs.txBitIndex < 8 * s.regs.txByteCount) (ht : sendDataBit s = .next t) : t.Inv := by
  cases sendDataBit_next ht
  exact send_inv (p := .xmitDatabit1) h hm (by simp [hout, holdsLow]) tx (lowFor_mem_budgets ..)

include hn in
theorem execArmXmitWait_inv (hs : s.regs.InvAt s.cfg .xmitWait) (ht : execArmXmitWait s = .next t) : t.Inv := by
  unfold execArmXmitWait at ht
  split_ifs at ht <;> cases ht
  · exact send_inv (p := .xmitStartbit1)
      (Regs.Sound.beginLow (s := { s with regs := { s.regs with txBitIndex := 0 } }) (h.txBitIndex 0) hn)
      (hs.transmits rfl) (by simp [holdsLow]) ⟨hs.tx, rfl⟩
  · exact ⟨h.legal, _, hs⟩

include hn in
theorem execArmXmitStartbit2_inv (hs : s.regs.InvAt s.cfg .xmitStartbit2) (ht : execArmXmitStartbit2 s = .next t) : t.Inv := by
  obtain ⟨hpending, h0⟩ := hs.tx
  simp only [execArmXmitStartbit2, withTxBit, withByte_eq] at ht
  split_ifs at ht <;> cases ht
  · exact send_inv (p := .xmitDatabit1) (h.beginLow hn) (hs.transmits rfl) (by simp [holdsLow])
      (show s.regs.txBitIndex < 8 * s.regs.txByteCount by omega) (lowFor_mem_budgets ..)
  · exact ⟨h.legal, _, hs⟩

include hn in
theorem execArmXmitDatabit2_inv (hs : s.regs.InvAt s.cfg .xmitDatabit2) (ht : execArmXmitDatabit2 s = .next t) : t.Inv := by
  have htx : s.regs.txBitIndex < 8 * s.regs.txByteCount := hs.tx
  have hsound := Regs.Sound.beginLow (s := { s with regs := { s.regs with txBitIndex := s.regs.txBitIndex + 1 } })
    (h.txBitIndex _) hn
  simp only [execArmXmitDatabit2] at ht
  split_ifs at ht with he hmod
  · cases ht
    replace hmod : (s.regs.txBitIndex + 1) % 8 = 0 := hmod
    exact send_inv (p := .xmitEom1) hsound (hs.transmits rfl) (by simp [holdsLow])
      (show 8 ≤ s.regs.txBitIndex + 1 ∧ (s.regs.txBitIndex + 1) % 8 = 0 ∧
        s.regs.txBitIndex + 1 ≤ 8 * s.regs.txByteCount by omega) (lowFor_mem_budgets ..)
  · replace hmod : ¬(s.regs.txBitIndex + 1) % 8 = 0 := hmod
    exact sendDataBit_inv (s := beginLow { s with regs := { s.regs with txBitIndex := s.regs.txBitIndex + 1 } }) hsound
      (hs.transmits rfl) rfl (show s.regs.txBitIndex + 1 < 8 * s.regs.txByteCount by omega) ht
  · cases ht
    exact ⟨h.legal, _, hs⟩

include hn in
theorem execArmXmitEom2_inv (hs : s.regs.InvAt s.cfg .xmitEom2) (ht : execArmXmitEom2 s = .next t) : t.Inv := by
  unfold execArmXmitEom2 at ht
  split_ifs at ht <;> cases ht
  · exact send_inv (p := .xmitAck1) (h.beginLow hn) (hs.transmits rfl) (by simp [holdsLow]) hs.tx
  · exact ⟨h.legal, _, hs⟩

/-- Between two blocks of a frame: its bits are not all sent yet (R105). -/
theorem nextBlock_inv (hm : s.regs.monitor = false) (hout : s.regs.lineOut = .high) (tx : txPosition s.regs .xmitAck2) :
    (nextBlock s).Inv := by
  cases hl : s.arm.line with
  | low =>
    simp only [nextBlock, hl]
    exact goto_inv (p := .xmitAckWait) h (fun _ hd => nomatch hd) (fun hp => nomatch hp) (by decide)
      (by simp [hout, holdsLow]) (fun hm' => nomatch hm.symm.trans hm') trivial tx
  | high =>
    simp only [nextBlock, hl]
    exact send_inv (p := .xmitAck2) h hm (by simp [hout, holdsLow]) tx

theorem execArmXmitAckTest_inv (hs : s.regs.InvAt s.cfg .xmitAckTest) (ht : execArmXmitAckTest s = .next t) : t.Inv := by
  have hout := hs.released rfl
  obtain ⟨h8, hmod, hle⟩ := hs.tx
  rcases execArmXmitAckTest_next ht with ⟨-, rfl⟩ | ⟨-, -, hne, rfl⟩ | ⟨-, -, u, hu, rfl⟩ | ⟨-, -, -, u, hu, rfl⟩
  · exact ⟨h.legal, _, hs⟩
  · exact nextBlock_inv h (hs.transmits rfl) hout ⟨h8, hmod, lt_of_le_of_ne hle hne⟩
  · exact toIdle_inv (h.failAttempt hu).1 ((h.failAttempt hu).2.trans hout)
  · exact toIdle_inv (h.succeed hu).1 ((h.succeed hu).2.trans hout)

theorem execArmXmitAckWait_inv (hs : s.regs.InvAt s.cfg .xmitAckWait) (ht : execArmXmitAckWait s = .next t) : t.Inv := by
  unfold execArmXmitAckWait at ht
  split_ifs at ht <;> cases ht
  · exact send_inv (p := .xmitAck2) h (hs.transmits rfl) hs.line.drive hs.tx
  · exact ⟨h.legal, _, hs⟩

include hn in
theorem execArmXmitAck2_inv (hs : s.regs.InvAt s.cfg .xmitAck2) (ht : execArmXmitAck2 s = .next t) : t.Inv := by
  unfold execArmXmitAck2 at ht
  split_ifs at ht
  · exact sendDataBit_inv (s := beginLow s) (h.beginLow hn) (hs.transmits rfl) rfl hs.tx.2.2 ht
  · cases ht
    exact ⟨h.legal, _, hs⟩

include hn in
/-- Every arm keeps the invariant (R73). -/
theorem exec_arm_inv (hs : s.regs.InvAt s.cfg p) (ht : exec p.arm s = .next t) : t.Inv := by
  cases p with
  | idle => exact execArmIdle_inv h hn hs ht
  | rcvStartbit1 => exact execArmRcvStartbit1_inv h hs ht
  | rcvStartbit2 => exact execArmRcvStartbit2_inv h hn hs ht
  | rcvDatabit1 => exact execArmRcvDatabit1_inv h hs ht
  | rcvDatabit2 => exact execArmRcvDatabit2_inv h hn hs ht
  | rcvEom1 => exact execArmRcvEom1_inv h hs ht
  | rcvEom2 => exact execArmRcvEom2_inv h hn hs ht
  | rcvAckSent => exact execArmRcvAckSent_inv h hn hs ht
  | rcvAck1 => exact execArmRcvAck1_inv h hs ht
  | rcvAck2 => exact execArmRcvAck2_inv h hn hs ht
  | rcvLineerror => exact execArmRcvLineerror_inv h hs ht
  | xmitWait => exact execArmXmitWait_inv h hn hs ht
  | xmitStartbit1 => exact releaseTo_inv h hn hs ht hs.tx
  | xmitStartbit2 => exact execArmXmitStartbit2_inv h hn hs ht
  | xmitDatabit1 => exact releaseTo_inv h hn hs ht hs.tx
  | xmitDatabit2 => exact execArmXmitDatabit2_inv h hn hs ht
  | xmitEom1 => exact releaseTo_inv h hn hs ht hs.tx
  | xmitEom2 => exact execArmXmitEom2_inv h hn hs ht
  | xmitAck1 => exact releaseTo_inv h hn hs ht hs.tx
  | xmitAckTest => exact execArmXmitAckTest_inv h hs ht
  | xmitAckWait => exact execArmXmitAckWait_inv h hs ht
  | xmitAck2 => exact execArmXmitAck2_inv h hn hs ht

end Arms

/-! ### The host operations and the step -/

/-- The record of a line change (R67). -/
theorem Regs.InvAt.observe {n : Nat} (h : r.InvAt c p) (hi : r.initialized = true) (hn : n < 2 ^ c.timeWidth) (l : Level) :
    { r with lastLineState := l, lineSetTime := n }.InvAt c p :=
  { h with
    inert := fun hi' => nomatch hi.symm.trans hi'
    buffers := { h.buffers with }
    counters := { h.counters with }
    timers := { h.timers with lineSet := hn }
    allocator := { h.allocator with }
    line := { h.line with }
    rx := by cases p <;> exact h.rx
    tx := by cases p <;> exact h.tx }

theorem run_inv {l : Level} (h : s.Inv) (ht : exec (.run l) s = .next t) : t.Inv := by
  obtain ⟨hc, p, hs⟩ := h
  obtain ⟨hi, rfl | ⟨u, p', q, hsp, -, hex, hcfg, -, -, hnow, -, hprologue⟩⟩ := run_next ht
  · exact ⟨hc, p, hs⟩
  have hp : p' = p := code_injective (hsp.symm.trans hs.state)
  have hn : portNow s < 2 ^ s.cfg.timeWidth := Nat.mod_lt _ (Nat.two_pow_pos _)
  have hseen := hs.observe hi hn l
  have hu : u.regs.InvAt u.cfg q ∧ u.regs.initialized = true := by
    rcases hprologue with ⟨rfl, -, hr⟩ | ⟨rfl, -, hr⟩ | ⟨rfl, -, -, hr⟩
    · rw [hcfg, hr, hp]
      exact ⟨hs, hi⟩
    · rw [hcfg, hr, hp]
      exact ⟨hseen, hi⟩
    · rw [hcfg, hr]
      exact ⟨Regs.Sound.invAt_idle { hseen.sound hc hi with } rfl rfl rfl, hi⟩
  exact exec_arm_inv (hu.1.sound (hcfg ▸ hc) hu.2) (by rw [hnow, hcfg]; exact hn) hu.1 hex

/-- The first candidate of a list is one to probe (R8 (f), R112). -/
theorem first_candidate_ne {a : LogAddr} {rest : List LogAddr} {dtype : BitVec 3} (hc : c.ok = true)
    (h : c.candidatesOf dtype = a :: rest) : a ≠ c.laUnregistered := by
  have hok := candidateListOk_candidatesOf hc dtype
  cases rest with
  | nil => simp [h, Config.candidateListOk] at hok
  | cons b rest =>
    simp only [h, Config.candidateListOk, List.isEmpty_cons, Bool.false_or, Bool.and_eq_true, List.all_eq_true,
      decide_eq_true_eq] at hok
    exact (hok.2 a (by simp)).2

/-- A block just configured, before the allocator starts (R120, R137). -/
theorem configure_sound (pa : BitVec 16) (dtype : BitVec 3) (prom mon : Bool) (hc : c.ok = true) :
    { Regs.reset with
      initialized := true, physAddr := pa, devType := dtype, promiscuous := prom, monitor := mon }.Sound c where
  rxWf := rfl
  txWf := rfl
  rxTail _ _ := rfl
  rxIn _ _ := rfl
  txIn _ _ := rfl
  rxBits := Nat.zero_le _
  txBytes := Nat.zero_le _
  retries := Nat.zero_le _
  cand := .inl rfl
  probing hal := nomatch hal
  claimed _ hla := nomatch hla
  unclaimed _ _ := rfl
  source _ hla := nomatch hla
  legal := hc
  initialized := rfl
  bitStart := Nat.two_pow_pos _
  lineSet := Nat.two_pow_pos _
  listens _ := ⟨rfl, rfl⟩
  follows hf := nomatch hf.1

theorem init_inv {pa : BitVec 16} {dtype : BitVec 3} {prom mon : Bool} (h : s.Inv)
    (ht : exec (.init pa dtype prom mon) s = .next t) : t.Inv := by
  obtain ⟨hc, p, hs⟩ := h
  simp only [exec, execInit] at ht
  split_ifs at ht with hi
  have hreset := hs.inert (by simpa using hi)
  have hu : (configure pa dtype prom mon s).regs.Sound s.cfg := by
    rw [configure_regs, hreset]
    exact configure_sound pa dtype prom mon hc
  obtain ⟨hst, hw, hout, hla⟩ : s.regs.st = Phase.code .idle ∧ s.regs.waitTime = some 0 ∧ s.regs.lineOut = .high ∧
      s.regs.la = none := by rw [hreset]; exact ⟨rfl, rfl, rfl, rfl⟩
  rcases allocStart_cases (configure pa dtype prom mon s) with hn | ⟨a, rest, hl, -, hm, hn⟩ <;> rw [hn] at ht
  · cases ht
    exact ⟨hc, .idle, hu.invAt_idle hst hw hout⟩
  · cases (withRoom_eq_next.1 ht).2
    have hfirst : (s.cfg.candidatesOf dtype)[0]? = some a := congrArg (·[0]?) hl
    exact ⟨hc, .idle, (hu.stageProbe rfl hla hm hfirst (first_candidate_ne hc hl)).invAt_idle hst hw hout⟩

@[simp] theorem sourceOf_header (source dest : LogAddr) : sourceOf (header source dest) = source := by
  revert source dest
  decide

/-- A frame staged by XMIT carries the block's address as its source (R121). -/
theorem Regs.Sound.stageFrame {a target : LogAddr} {n : Nat} (h : s.regs.Sound s.cfg) (hla : s.regs.la = some a)
    (hm : s.regs.monitor = false) (hn : n + 1 ≤ s.cfg.cap) : (Machine.stageFrame a target n s).regs.Sound s.cfg := by
  have hlen : (payloadBytes s n).length ≤ n := List.length_take_le ..
  have hread : (Machine.stageFrame a target n s).regs.txBuf.read 0 = header a target := by
    rw [stageFrame_regs, Memory.read_writeList _ _ _ _ (Memory.write_wf _ _ _ h.txWf), if_neg (by omega),
      Memory.read_write _ _ _ _ h.txWf, if_pos rfl]
  exact { h.toBuffersOk.stage (header a target) (payloadBytes s n) (by omega), h with
    txBytes := hn
    retries := Nat.zero_le _
    probing := fun hal => nomatch hla.symm.trans (h.probing hal).1
    unclaimed := fun hla' => nomatch hla.symm.trans hla'
    source := fun a' ha' _ => by rw [hread, sourceOf_header]; exact Option.some.inj (hla.symm.trans ha')
    listens := fun hm' => nomatch hm.symm.trans hm' }

theorem xmit_inv {target : LogAddr} {len : BitVec 5} (h : s.Inv) (ht : exec (.xmit target len) s = .next t) : t.Inv := by
  cases hla : s.regs.la with
  | none =>
    simp only [exec, execXmit, hla] at ht
    cases ht
    exact h
  | some a =>
    simp only [exec, execXmit, hla] at ht
    split_ifs at ht with hm hempty hlen
    · cases ht
      exact h
    · cases ht
      exact h
    · cases ht
      exact h
    obtain ⟨hroom, ht⟩ := withRoom_eq_next.1 ht
    cases ht
    obtain ⟨hc, p, hs⟩ := h
    have hi : s.regs.initialized = true := by
      by_contra hi
      rw [hs.inert (by simpa using hi)] at hla
      cases hla
    have hidle : isTransmit p = false := by
      by_contra hp
      exact hempty (pending_of_isTransmit (by simpa using hp) hs.tx).ne'
    have hsound := Regs.Sound.stageFrame (target := target) (hs.sound hc hi) hla (by simpa using hm) hroom
    exact ⟨hc, p, hsound.invAt hs.state hs.timers.budget hs.timers.idle hs.timers.forever hs.line.drive
      (fun hm' => absurd hm' hm) (by cases p <;> exact hs.rx) (txPosition_of_not_isTransmit hidle)⟩

/-- Settles O44: by the operation performed, and in a RUN by the arm it dispatches. -/
theorem stepKeepsInvariant : Obligations.StepKeepsInvariant := by
  intro s t h ht
  rcases step_next s t ht with ⟨-, -, rfl⟩ | ⟨op, rest, -, hop⟩
  · exact h
  obtain ⟨-, -, i, hd, hex⟩ := performOp_next _ _ hop
  have ha : (State.accept op { s with inbox := rest }).Inv := h
  rcases decodeCommand_cases hd with ⟨-, -, pa, dtype, prom, mon, rfl⟩ | ⟨-, -, target, len, rfl⟩ | ⟨-, -, l, rfl⟩
  · exact init_inv ha hex
  · exact xmit_inv ha hex
  · exact run_inv ha hex

end Sys2Proof.Machine
end

section
/-! PROOF. What the state elements keep (spec/10_state.md): the line output follows the protocol state, a monitor is silent, the
configuration is written by INIT alone, INIT and XMIT leave the protocol to RUN, and the address is written with its READY. A view
of the state that an operation leaves as it was is followed through the arms, and from there through RUN. -/

namespace Sys2Proof.Machine

variable {c : Config} {s t u : State} {p : Phase} {l : Level} {op : HostOp}

/-! ### The invariant along a run -/

/-- A block just created meets the invariant (R137). -/
theorem resetWith_inv (hc : c.ok = true) : (State.resetWith c).Inv :=
  have h := (configure_sound 0 0 false false hc).invAt_idle rfl rfl rfl
  ⟨hc, .idle,
    { h with
      inert := fun _ => rfl
      buffers := { h.buffers with }
      counters := { h.counters with }
      timers := { h.timers with }
      allocator := { h.allocator with }
      line := { h.line with } }⟩

theorem Reachable.inv (h : Reachable s) : s.Inv := by
  induction h with
  | start cfg hc => exact resetWith_inv hc
  | offered s op _ ih => exact ih
  | stepped s t _ hs ih => exact stepKeepsInvariant s t ih hs

theorem performOp_inv (h : s.Inv) (ht : performOp op s = .next t) : t.Inv :=
  stepKeepsInvariant { s with inbox := op :: s.inbox } t h ht

theorem holdsLow_iff (p : Phase) : holdsLow p = true ↔
    p ∈ [Phase.rcvAckSent, .xmitStartbit1, .xmitDatabit1, .xmitEom1, .xmitAck1] := by
  cases p <;> decide

/-- Settles O48: the invariant of every reachable state says when the line is driven. -/
theorem lineLowOnlyInOwnLowPhases : Obligations.LineLowOnlyInOwnLowPhases := by
  intro s h
  obtain ⟨-, p, hp⟩ := h.inv
  exact ⟨p, hp.state, hp.line.drive.trans (holdsLow_iff p)⟩

/-! ### INIT and XMIT -/

theorem allocStart_next (h : allocStart s = .next t) :
    t = s ∨ ∃ a, t = probeStaged a { s with regs := { s.regs with allocating := true, candIdx := 0 } } := by
  rcases allocStart_cases s with hs | ⟨a, -, -, -, -, hs⟩ <;> rw [hs] at h
  · cases h
    exact .inl rfl
  · cases (withRoom_eq_next.1 h).2
    exact .inr ⟨a, rfl⟩

/-- An INIT that completes configured a block not initialised, and may have staged the first probe (R112, R120). -/
theorem init_next {pa : BitVec 16} {dtype : BitVec 3} {prom mon : Bool} (h : exec (.init pa dtype prom mon) s = .next t) :
    s.regs.initialized = false ∧ (t = configure pa dtype prom mon s ∨ ∃ a, t = probeStaged a
      { s with regs := { (configure pa dtype prom mon s).regs with allocating := true, candIdx := 0 } }) := by
  simp only [exec, execInit] at h
  split_ifs at h with hi
  exact ⟨by simpa using hi, allocStart_next h⟩

theorem rejectXmit_next {x : Cause} (h : rejectXmit x s = .next t) : ∃ x, t = setOk false (note x s) :=
  ⟨x, (Host.Outcome.next.inj h).symm⟩

/-- An XMIT that completes rejected the frame or staged it (R121). -/
theorem xmit_next {target : LogAddr} {len : BitVec 5} (h : exec (.xmit target len) s = .next t) :
    (∃ x, t = setOk false (note x s)) ∨ ∃ a, s.regs.la = some a ∧ t = setOk true (stageFrame a target len.toNat s) := by
  cases hla : s.regs.la with
  | none =>
    simp only [exec, execXmit, hla] at h
    exact .inl (rejectXmit_next h)
  | some a =>
    simp only [exec, execXmit, hla] at h
    split_ifs at h
    · exact .inl (rejectXmit_next h)
    · exact .inl (rejectXmit_next h)
    · exact .inl (rejectXmit_next h)
    · cases (withRoom_eq_next.1 h).2
      exact .inr ⟨a, rfl, rfl⟩

/-- Settles O51: by the outcomes of INIT and of XMIT. -/
theorem onlyRunAdvancesProtocol : Obligations.OnlyRunAdvancesProtocol := by
  intro i s t hi hrun ht
  cases i with
  | init pa dtype prom mon =>
    obtain ⟨-, rfl | ⟨a, rfl⟩⟩ := init_next ht <;> simp
  | xmit target len =>
    obtain ⟨x, rfl⟩ | ⟨a, -, rfl⟩ := xmit_next ht <;> simp
  | run l => exact absurd rfl (hrun l)
  | _ => cases hi

/-! ### Views that an operation keeps -/

@[simp] theorem readyAddresses_append (es es' : List Event) :
    readyAddresses (es ++ es') = readyAddresses es ++ readyAddresses es' := List.filterMap_append

@[simp] theorem lineDrives_append (es es' : List Event) :
    lineDrives (es ++ es') = lineDrives es ++ lineDrives es' := List.filterMap_append

/-- The parameters, and the registers that INIT alone writes (R16, R36). -/
structure Setup where
  cfg         : Config
  initialized : Bool
  physAddr    : BitVec 16
  devType     : BitVec 3
  promiscuous : Bool
  monitor     : Bool

@[simp] def State.setup (s : State) : Setup where
  cfg := s.cfg
  initialized := s.regs.initialized
  physAddr := s.regs.physAddr
  devType := s.regs.devType
  promiscuous := s.regs.promiscuous
  monitor := s.regs.monitor

/-- The set-up, the address, and the addresses that the READY events so far reported (R21, R117). -/
structure Identity where
  setup : Setup
  la    : Option LogAddr
  ready : List LogAddr

@[simp] def State.identity (s : State) : Identity where
  setup := s.setup
  la := s.regs.la
  ready := readyAddresses s.out.events

/-- The identity, and the levels that the SET_LINE events so far commanded (R119). -/
@[simp] def State.trail (s : State) : Identity × List Level := (s.identity, lineDrives s.out.events)

/-- The operation `f` leaves the view `v` of the state as it was. -/
def Keeps {α : Type} (v : State → α) (f : State → Result) : Prop := ∀ ⦃s t⦄, f s = .next t → v t = v s

section Keeps

variable {α : Type} {v : State → α} {f g : State → Result}

theorem Keeps.next {f : State → State} (hf : ∀ s, v (f s) = v s := by intro s; simp) :
    Keeps v fun s => .next (f s) := fun s t h => by
  cases h
  exact hf s

theorem Keeps.ite {b : State → Prop} [DecidablePred b] (hf : Keeps v f) (hg : Keeps v g) :
    Keeps v fun s => if b s then f s else g s := fun s t h => by
  by_cases hb : b s
  · exact hf ((if_pos hb).symm.trans h)
  · exact hg ((if_neg hb).symm.trans h)

theorem Keeps.identity (h : Keeps State.trail f) : Keeps State.identity f := fun _ _ ht => congrArg Prod.fst (h ht)

end Keeps

theorem endBlock_keeps (ends : Bool) : Keeps State.trail (endBlock ends) := by
  intro s t h
  obtain rfl | rfl | rfl := endBlock_next h <;> simp [readyAddresses, lineDrives]

theorem shiftIn_keeps (b : Bool) : Keeps State.trail (shiftIn b) := by
  intro s t h
  cases shiftIn_next h
  rfl

/-- `IDLE` and the receive arms but those of the acknowledge drive touch no line (R85, R87). -/
theorem listening_arm_keeps (htx : isTransmit p = false) (heom : p ≠ .rcvEom2) (hack : p ≠ .rcvAckSent) :
    Keeps State.trail (exec p.arm) := by
  cases p with
  | idle => exact .ite .next (.ite .next .next)
  | rcvStartbit1 => exact .ite (.ite .next .next) (.ite .next .next)
  | rcvStartbit2 => exact .ite (.ite .next .next) (.ite .next .next)
  | rcvDatabit1 =>
    refine .ite (fun s t h => ?_) (.ite .next .next)
    obtain ⟨u, hu, ht⟩ := andThen_eq_next.1 h
    cases ht
    simpa using shiftIn_keeps _ hu
  | rcvDatabit2 => exact .ite .next (.ite .next .next)
  | rcvEom1 =>
    refine .ite (fun s t h => ?_) (.ite .next .next)
    cases (withRoom_eq_next.1 h).2
    simp
  | rcvAck1 =>
    refine .ite (fun s t h => ?_) (.ite .next .next)
    simpa using endBlock_keeps _ h
  | rcvAck2 => exact .ite .next (.ite .next .next)
  | rcvLineerror => exact .ite .next .next
  | rcvEom2 => exact absurd rfl heom
  | rcvAckSent => exact absurd rfl hack
  | _ => cases htx

theorem setLine_identity (v : Level) (s : State) : (setLine v s).identity = s.identity := by
  simp [readyAddresses]

theorem beginLow_identity (s : State) : (beginLow s).identity = s.identity := setLine_identity .low _

theorem withTxBit_next {i : Nat} {k : Bool → Result} (h : withTxBit s i k = .next t) :
    k (lineBit (s.regs.txBuf.read (i >>> 3)) i) = .next t := by
  rw [withTxBit, withByte_eq] at h
  split_ifs at h
  exact h

theorem sendDataBit_keeps : Keeps State.identity sendDataBit := by
  intro s t h
  cases sendDataBit_next h
  rfl

theorem releaseTo_keeps (q : Phase) (d : State → Nat) : Keeps State.identity fun s => releaseTo q (d s) s :=
  .ite (.next fun s => setLine_identity .high s) .next

/-- No arm but the acknowledge test writes the address or reports one (R114). -/
theorem arm_keeps_identity (hp : p ≠ .xmitAckTest) : Keeps State.identity (exec p.arm) := by
  cases p with
  | rcvEom2 => exact .ite (.ite (.next fun s => beginLow_identity s) .next) (.ite .next .next)
  | rcvAckSent =>
    refine .ite (fun s t h => ?_) .next
    exact ((endBlock_keeps _).identity h).trans (setLine_identity .high s)
  | xmitWait => exact .ite (.next fun s => beginLow_identity _) .next
  | xmitStartbit1 => exact releaseTo_keeps _ _
  | xmitStartbit2 =>
    refine .ite (fun s t h => ?_) .next
    cases withTxBit_next h
    exact beginLow_identity s
  | xmitDatabit1 => exact releaseTo_keeps _ _
  | xmitDatabit2 =>
    refine .ite (.ite (.next fun s => beginLow_identity _) fun s t h => ?_) .next
    exact (sendDataBit_keeps h).trans (beginLow_identity _)
  | xmitEom1 => exact releaseTo_keeps _ _
  | xmitEom2 => exact .ite (.next fun s => beginLow_identity s) .next
  | xmitAck1 => exact releaseTo_keeps _ _
  | xmitAckTest => exact absurd rfl hp
  | xmitAckWait => exact .ite .next .next
  | xmitAck2 =>
    refine .ite (fun s t h => ?_) .next
    exact (sendDataBit_keeps h).trans (beginLow_identity s)
  | _ => exact (listening_arm_keeps (by decide) (by decide) (by decide)).identity

/-! ### The address and the configuration -/

/-- What an operation of an initialised block can do to its identity: nothing, or take an address while it allocates and report
it (R115, R116). -/
def AddressStep (s t : State) : Prop :=
  t.identity = s.identity ∨
    s.regs.allocating = true ∧ ∃ a, t.identity = { s.identity with la := some a, ready := s.identity.ready ++ [a] }

theorem AddressStep.trans_keep (h : AddressStep s t) (ht : u.identity = t.identity) : AddressStep s u := by
  rwa [AddressStep, ht]

theorem AddressStep.of_keep (h : AddressStep s t) (hs : s.identity = u.identity)
    (hal : s.regs.allocating = u.regs.allocating) : AddressStep u t := by
  rwa [AddressStep, ← hs, ← hal]

theorem AddressStep.setup_eq (h : AddressStep s t) : t.setup = s.setup := by
  rcases h with h | ⟨-, a, h⟩ <;> exact congrArg Identity.setup h

theorem stepIfAllocating_address {b : Bool} (h : stepIfAllocating b s = .next t) : AddressStep s t := by
  rcases stepIfAllocating_next h with
    ⟨-, rfl⟩ | ⟨hal, -, a, -, rfl⟩ | ⟨hal, -, a, -, -, rfl⟩ | ⟨-, -, a, -, -, rfl⟩
  · exact .inl rfl
  · exact .inr ⟨hal, a, by simp [readyAddresses]⟩
  · exact .inr ⟨hal, a, by simp [readyAddresses]⟩
  · exact .inl rfl

theorem failAttempt_address (h : failAttempt s = .next t) : AddressStep s t := by
  rcases failAttempt_next h with ⟨-, ht⟩ | ⟨-, -, rfl⟩ | ⟨-, -, rfl⟩
  · exact (stepIfAllocating_address ht).of_keep (by simp [readyAddresses]) rfl
  · exact .inl rfl
  · exact .inl (by simp [readyAddresses])

theorem succeed_address (h : succeed s = .next t) : AddressStep s t :=
  (stepIfAllocating_address (succeed_next h)).of_keep (by simp [readyAddresses]) rfl

theorem ackTest_address (h : execArmXmitAckTest s = .next t) : AddressStep s t := by
  rcases execArmXmitAckTest_next h with ⟨-, rfl⟩ | ⟨-, -, -, rfl⟩ | ⟨-, -, u, hu, rfl⟩ | ⟨-, -, -, u, hu, rfl⟩
  · exact .inl rfl
  · left
    cases hl : s.arm.line <;> simp [nextBlock, hl]
  · exact (failAttempt_address hu).trans_keep rfl
  · exact (succeed_address hu).trans_keep rfl

theorem arm_address (h : exec p.arm s = .next t) : AddressStep s t := by
  by_cases hp : p = .xmitAckTest
  · subst hp
    exact ackTest_address h
  · exact .inl (arm_keeps_identity hp h)

theorem abort_ready (s : State) : readyAddresses (abort s).out.events = readyAddresses s.out.events := by
  rw [abort_out]
  split_ifs <;> simp [readyAddresses]

/-- The record of a line change and the abort take no address (R67, R71). -/
theorem run_address (h : exec (.run l) s = .next t) : AddressStep s t := by
  obtain ⟨-, rfl | ⟨u, p, q, -, -, hex, hcfg, -, -, -, -, hprologue⟩⟩ := run_next h
  · exact .inl rfl
  have hu : u.identity = s.identity ∧ u.regs.allocating = s.regs.allocating := by
    rcases hprologue with ⟨-, hout, hr⟩ | ⟨-, hout, hr⟩ | ⟨-, -, hout, hr⟩
    · simp only [State.identity, State.setup, hcfg, hout, hr, and_self]
    · simp only [State.identity, State.setup, hcfg, hout, hr, and_self]
    · simp only [State.identity, State.setup, hcfg, hout, hr, abort_ready, and_self]
  exact (arm_address hex).of_keep hu.1 hu.2

/-- An operation other than the INIT of a block not initialised keeps its set-up (R16). -/
theorem exec_setup {i : Instr} (hi : i.isCommand = true) (ht : exec i s = .next t)
    (h : s.regs.initialized = true ∨ ∀ pa dtype prom mon, i ≠ .init pa dtype prom mon) : t.setup = s.setup := by
  cases i with
  | init pa dtype prom mon =>
    rcases h with h | h
    · exact nomatch h.symm.trans (init_next ht).1
    · exact absurd rfl (h pa dtype prom mon)
  | xmit target len => obtain ⟨x, rfl⟩ | ⟨a, -, rfl⟩ := xmit_next ht <;> rfl
  | run l => exact (run_address ht).setup_eq
  | _ => cases hi

theorem exec_cfg {i : Instr} (hi : i.isCommand = true) (ht : exec i s = .next t) : t.cfg = s.cfg := by
  cases i with
  | init pa dtype prom mon => obtain ⟨-, rfl | ⟨a, rfl⟩⟩ := init_next ht <;> rfl
  | _ => exact congrArg Setup.cfg (exec_setup hi ht (.inr nofun))

/-- The opcode of INIT (R52). -/
theorem opcode_init {cw : BitVec 32} {pa : BitVec 16} {dtype : BitVec 3} {prom mon : Bool}
    (h : decodeCommand cw = .accept (.init pa dtype prom mon)) : cw &&& 0x3 = 0x1 := by
  rcases decodeCommand_cases h with ⟨h1, h0, -⟩ | ⟨-, -, _, _, ⟨⟩⟩ | ⟨-, -, _, ⟨⟩⟩
  replace h1 : cw[1] = false := h1
  refine Laws.and_eq_of_bits fun k hk => ?_
  interval_cases k <;> simp [h0, h1]

/-- Settles O50: by the operation the step performs. -/
theorem configurationIsImmutable : Obligations.ConfigurationIsImmutable := by
  intro s t ht
  rcases step_next s t ht with ⟨-, -, rfl⟩ | ⟨op, rest, hq, hop⟩
  · simp
  obtain ⟨-, -, i, hd, hex⟩ := performOp_next _ _ hop
  have hi := decodeCommand_isCommand hd
  refine ⟨(exec_cfg hi hex).trans rfl, fun h => ?_⟩
  have hinit : s.regs.initialized = true ∨ ∀ pa dtype prom mon, i ≠ .init pa dtype prom mon :=
    h.imp_right fun hno pa dtype prom mon he => hno op rest hq (opcode_init (he ▸ hd))
  have hset : t.setup = s.setup := (exec_setup hi hex hinit).trans rfl
  exact ⟨congrArg Setup.initialized hset, congrArg Setup.physAddr hset, congrArg Setup.devType hset,
    congrArg Setup.promiscuous hset, congrArg Setup.monitor hset⟩

/-- An operation leaves the address and reports none, or takes one while it allocates and reports it. -/
theorem exec_address {i : Instr} (hi : i.isCommand = true) (ht : exec i s = .next t) :
    (t.regs.la = s.regs.la ∧ readyAddresses t.out.events = readyAddresses s.out.events) ∨
    (s.regs.allocating = true ∧ ∃ a, t.regs.la = some a ∧
      readyAddresses t.out.events = readyAddresses s.out.events ++ [a]) := by
  cases i with
  | init pa dtype prom mon => obtain ⟨-, rfl | ⟨a, rfl⟩⟩ := init_next ht <;> exact .inl ⟨rfl, rfl⟩
  | xmit target len => obtain ⟨x, rfl⟩ | ⟨a, -, rfl⟩ := xmit_next ht <;> exact .inl ⟨rfl, rfl⟩
  | run l =>
    rcases run_address ht with h | ⟨hal, a, h⟩
    · exact .inl ⟨congrArg Identity.la h, congrArg Identity.ready h⟩
    · exact .inr ⟨hal, a, congrArg Identity.la h, congrArg Identity.ready h⟩
  | _ => cases hi

/-- Settles O52: a block that allocates has no address yet. -/
theorem addressIsWrittenOnce : Obligations.AddressIsWrittenOnce := by
  rintro s t op ⟨-, p, hs⟩ ht
  obtain ⟨-, -, i, hd, hex⟩ := performOp_next _ _ ht
  rcases exec_address (decodeCommand_isCommand hd) hex with ⟨hla, hready⟩ | ⟨hal, a, hla, hready⟩
  · replace hla : t.regs.la = s.regs.la := hla
    replace hready : readyAddresses t.out.events = [] := hready
    exact ⟨fun a ha => ⟨hla.trans ha, hready⟩, fun hnone => by rw [hready, hla, hnone]; rfl⟩
  · have hnone : s.regs.la = none := (hs.allocator.probing hal).1
    replace hready : readyAddresses t.out.events = [a] := hready
    exact ⟨fun a' ha' => (nomatch hnone.symm.trans ha'), fun _ => by rw [hready, hla]; rfl⟩

/-! ### A monitor -/

theorem isTransmit_of_arbitrated (h : arbitrated p = true) : isTransmit p = true := by
  revert h
  cases p <;> decide

/-- No arm that a monitor can reach drives the line: its acknowledge drive is off (R20, R86). -/
theorem monitor_arm_drives (hm : s.regs.monitor = true) (htx : isTransmit p = false) (hlow : holdsLow p = false)
    (h : exec p.arm s = .next t) : lineDrives t.out.events = lineDrives s.out.events := by
  by_cases hp : p = .rcvEom2
  · subst hp
    have hoff : ackDrive s = false := by simp [ackDrive, hm]
    simp only [Phase.arm, exec, execArmRcvEom2, hoff, Bool.false_eq_true, if_false] at h
    split_ifs at h <;> cases h <;> rfl
  · refine congrArg Prod.snd (listening_arm_keeps htx hp ?_ h)
    rintro rfl
    cases hlow

theorem run_monitor (hs : s.regs.InvAt s.cfg p) (hm : s.regs.monitor = true) (h : exec (.run l) s = .next t) :
    lineDrives t.out.events = lineDrives s.out.events := by
  obtain ⟨-, -, hlow, htx⟩ := hs.line.monitor hm
  obtain ⟨-, rfl | ⟨u, p', q, hsp, -, hex, -, -, -, -, -, hprologue⟩⟩ := run_next h
  · rfl
  cases code_injective (hsp.symm.trans hs.state)
  rcases hprologue with ⟨rfl, hout, hr⟩ | ⟨rfl, hout, hr⟩ | ⟨-, harb, -, -⟩
  · rw [monitor_arm_drives (by rw [hr, hm]) htx hlow hex, hout]
  · rw [monitor_arm_drives (by rw [hr, hm]) htx hlow hex, hout]
  · exact nomatch htx.symm.trans (isTransmit_of_arbitrated harb)

/-- Settles O49: the set-up stays, so the next state is a monitor's too, and the invariant says what a monitor never has. -/
theorem monitorNeverDrives : Obligations.MonitorNeverDrives := by
  intro s t op hinv hm ht
  obtain ⟨-, q, hq⟩ := performOp_inv hinv ht
  obtain ⟨-, p, hs⟩ := hinv
  have hi : s.regs.initialized = true := by
    by_contra hi
    rw [hs.inert (by simpa using hi)] at hm
    cases hm
  obtain ⟨-, -, i, hd, hex⟩ := performOp_next _ _ ht
  have hset : t.setup = s.setup := (exec_setup (decodeCommand_isCommand hd) hex (.inl hi)).trans rfl
  have hm' : t.regs.monitor = true := (congrArg Setup.monitor hset).trans hm
  obtain ⟨hla, hcount, hlow, -⟩ := hq.line.monitor hm'
  have hal : t.regs.allocating = false := by
    by_contra hal
    obtain ⟨-, hoff, -⟩ := hq.allocator.probing (by simpa using hal)
    exact nomatch hm'.symm.trans hoff
  refine ⟨?_, hq.released hlow, hla, hal, hcount, hm'⟩
  rcases decodeCommand_cases hd with ⟨-, -, pa, dtype, prom, mon, rfl⟩ | ⟨-, -, target, len, rfl⟩ | ⟨-, -, l, rfl⟩
  · exact nomatch hi.symm.trans (init_next hex).1
  · obtain ⟨x, rfl⟩ | ⟨a, -, rfl⟩ := xmit_next hex <;> rfl
  · exact run_monitor (s := s.accept op) hs hm hex

end Sys2Proof.Machine
end

section
/-! PROOF. `promiscuous` affects delivery only (spec/10_state.md R19). An operation is run on a block and on the same block with the
flag set to `b`. Where nothing is delivered the two next states differ in the flag alone; a delivery (R91), which reads the flag,
ends the arm that makes it. -/

namespace Sys2Proof.Machine

variable {b : Bool} {s t u : State} {l : Level}

/-- The block with the flag `promiscuous` at `b`. -/
def State.withPromiscuous (b : Bool) (s : State) : State := { s with regs := { s.regs with promiscuous := b } }

@[simp] theorem withPromiscuous_regs (b : Bool) (s : State) :
    (s.withPromiscuous b).regs = { s.regs with promiscuous := b } := rfl
@[simp] theorem withPromiscuous_out (b : Bool) (s : State) : (s.withPromiscuous b).out = s.out := rfl
@[simp] theorem withPromiscuous_cfg (b : Bool) (s : State) : (s.withPromiscuous b).cfg = s.cfg := rfl

@[simp] theorem txReports_append (es es' : List Event) :
    txReports (es ++ es') = txReports es ++ txReports es' := List.filterMap_append

/-! ### Two runs of one operation -/

/-- Where `f` completes on the block and on the block with the flag at `b`, the two next states stand in the relation `R`. -/
def Paired (b : Bool) (R : State → State → Prop) (f : State → Result) : Prop :=
  ∀ ⦃s t u⦄, f s = .next t → f (s.withPromiscuous b) = .next u → R t u

/-- `f` does not read the flag. -/
abbrev Ignores (b : Bool) (f : State → Result) : Prop := Paired b (fun t u => u = t.withPromiscuous b) f

/-- Two next states that agree but for the flag and the RX_COMPLETE events. -/
structure AgreeButDelivery (b : Bool) (t u : State) : Prop where
  regs    : { t.regs with promiscuous := b } = u.regs
  drives  : lineDrives t.out.events = lineDrives u.out.events
  reports : txReports t.out.events = txReports u.out.events
  ready   : readyAddresses t.out.events = readyAddresses u.out.events

section Paired

variable {R : State → State → Prop} {f g : State → Result}

theorem Ignores.agree (h : Ignores b f) : Paired b (AgreeButDelivery b) f := fun s t u ht hu => by
  cases h ht hu
  exact ⟨rfl, rfl, rfl, rfl⟩

theorem Paired.next {f : State → State} (hf : ∀ s, R (f s) (f (State.withPromiscuous b s)) := by exact fun _ => rfl) :
    Paired b R fun s => .next (f s) := fun s t u ht hu => by
  cases ht
  cases hu
  exact hf s

/-- A choice that the flag does not decide. -/
theorem Paired.ite {q : State → Prop} [DecidablePred q] (hf : Paired b R f) (hg : Paired b R g)
    (hq : ∀ s, q (State.withPromiscuous b s) ↔ q s := by exact fun _ => Iff.rfl) :
    Paired b R fun s => if q s then f s else g s := fun s t u ht hu => by
  by_cases h : q s
  · exact hf ((if_pos h).symm.trans ht) ((if_pos ((hq s).2 h)).symm.trans hu)
  · exact hg ((if_neg h).symm.trans ht) ((if_neg (h ∘ (hq s).1)).symm.trans hu)

theorem Paired.andThen (hf : Ignores b f) (hg : Paired b R g) : Paired b R fun s => andThen (f s) g :=
  fun s t u ht hu => by
    obtain ⟨s₁, hs₁, ht⟩ := andThen_eq_next.1 ht
    obtain ⟨s₂, hs₂, hu⟩ := andThen_eq_next.1 hu
    cases hf hs₁ hs₂
    exact hg ht hu

/-- An update that does not read the flag, before an operation. -/
theorem Paired.comp {g : State → State} (hf : Paired b R f)
    (hg : ∀ s, g (State.withPromiscuous b s) = (g s).withPromiscuous b := by exact fun _ => rfl) :
    Paired b R fun s => f (g s) := fun s _ _ ht hu => hf ht ((congrArg f (hg s)).symm.trans hu)

theorem Paired.withRoom {n : Nat} (hf : Paired b R f) : Paired b R fun s => withRoom s.cfg n (f s) :=
  fun _ _ _ ht hu => hf (withRoom_eq_next.1 ht).2 (withRoom_eq_next.1 hu).2

end Paired

/-! ### The operations that deliver nothing -/

theorem noteTolerance_withPromiscuous (s : State) :
    noteTolerance (s.withPromiscuous b) = (noteTolerance s).withPromiscuous b := by
  simp only [noteTolerance_eq]
  rfl

theorem noteOverflow_withPromiscuous (s : State) :
    noteOverflow (s.withPromiscuous b) = (noteOverflow s).withPromiscuous b := by
  simp only [noteOverflow_eq]
  rfl

theorem nextBlock_withPromiscuous (s : State) : nextBlock (s.withPromiscuous b) = (nextBlock s).withPromiscuous b := by
  have harm : (s.withPromiscuous b).arm = s.arm := rfl
  cases h : s.arm.line with
  | low => simp only [nextBlock, harm, h]; rfl
  | high => simp only [nextBlock, harm, h]; rfl

theorem releaseLine_withPromiscuous (s : State) :
    releaseLine (s.withPromiscuous b) = (releaseLine s).withPromiscuous b := by
  cases h : s.regs.lineOut with
  | low => simp only [releaseLine, withPromiscuous_regs, h]; rfl
  | high => simp only [releaseLine, withPromiscuous_regs, h]

theorem detect_withPromiscuous (n : Nat) (s : State) :
    detect l n (s.withPromiscuous b) = (detect l n s).withPromiscuous b := by
  have habort (v : State) : abort (v.withPromiscuous b) = (abort v).withPromiscuous b :=
    congrArg (note .txArbitration) (releaseLine_withPromiscuous (toIdle v))
  by_cases hl : l = s.regs.lastLineState
  · subst hl
    exact (detect_same (s.withPromiscuous b) n).trans (congrArg _ (detect_same s n).symm)
  · rw [detect_changed s n hl, detect_changed (s.withPromiscuous b) n hl, apply_ite (State.withPromiscuous b), ← habort]
    rfl

theorem prologue_withPromiscuous (n : Nat) (s : State) :
    prologue l n (s.withPromiscuous b) = (prologue l n s).withPromiscuous b := by
  rw [prologue, detect_withPromiscuous]
  rfl

theorem shiftIn_ignores (x : Bool) : Ignores b (shiftIn x) := fun s t u ht hu => by
  cases shiftIn_next ht
  cases shiftIn_next hu
  rfl

theorem sendDataBit_ignores : Ignores b sendDataBit := fun s t u ht hu => by
  cases sendDataBit_next ht
  cases sendDataBit_next hu
  rfl

theorem reportAndDrop_ignores (x : Bool) : Ignores b (reportAndDrop x) := fun s t u ht hu => by
  cases reportAndDrop_next ht
  cases reportAndDrop_next hu
  rfl

theorem allocClaim_ignores : Ignores b allocClaim := fun s t u ht hu => by
  cases h : (candidatesFor s)[s.regs.candIdx]? with
  | none => simp [allocClaim, h] at ht
  | some a =>
    rw [allocClaim_eq s h] at ht
    rw [allocClaim_eq (s.withPromiscuous b) h] at hu
    cases ht
    cases hu
    rfl

theorem stageProbe_ignores (a : LogAddr) : Ignores b (stageProbe a) := .withRoom .next

theorem allocAdvance_ignores : Ignores b allocAdvance := fun s t u ht hu => by
  cases h : (candidatesFor s)[s.regs.candIdx + 1]? with
  | none => cases (allocAdvance_eq_fault s h).symm.trans ht
  | some a =>
    rw [allocAdvance_eq s h] at ht
    rw [allocAdvance_eq (s.withPromiscuous b) h, withPromiscuous_cfg] at hu
    split_ifs at ht hu
    · cases ht
      cases hu
      rfl
    · exact stageProbe_ignores a (s := { s with regs := { s.regs with candIdx := s.regs.candIdx + 1 } }) ht hu

theorem stepIfAllocating_ignores (x : Bool) : Ignores b (stepIfAllocating x) :=
  .ite (.ite allocAdvance_ignores allocClaim_ignores) .next

theorem failAttempt_ignores : Ignores b failAttempt :=
  .ite (.andThen (.comp (reportAndDrop_ignores false)) (stepIfAllocating_ignores false))
    (.ite .next (.comp (reportAndDrop_ignores false)))

theorem succeed_ignores : Ignores b succeed :=
  .andThen (.comp (reportAndDrop_ignores true)) (stepIfAllocating_ignores true)

theorem resolveByte_ignores : Ignores b resolveByte :=
  .ite (.andThen failAttempt_ignores .next) (.ite (.andThen succeed_ignores .next) (.next nextBlock_withPromiscuous))

/-! ### The delivery -/

theorem deliver_paired : Paired b (AgreeButDelivery b) deliver := fun s t u ht hu => by
  cases deliver_next ht
  cases deliver_next hu
  split_ifs
  · exact ⟨rfl, rfl, rfl, rfl⟩
  · exact ⟨rfl, by simp [lineDrives], by simp [txReports], by simp [readyAddresses]⟩
  · exact ⟨rfl, by simp [lineDrives], by simp [txReports], by simp [readyAddresses]⟩
  · exact ⟨rfl, rfl, rfl, rfl⟩

theorem endBlock_paired (ends : Bool) : Paired b (AgreeButDelivery b) (endBlock ends) :=
  .ite deliver_paired (Ignores.agree .next)

/-! ### The arms and RUN -/

/-- The arms but the two that end a block, where a frame is delivered (R87, R88). -/
theorem arm_ignores {p : Phase} (hsent : p ≠ .rcvAckSent) (hack : p ≠ .rcvAck1) : Ignores b (exec p.arm) := by
  cases p with
  | idle => exact .ite .next (.ite .next .next)
  | rcvStartbit1 => exact .ite (.ite .next .next) (.ite .next .next)
  | rcvStartbit2 => exact .ite (.ite .next .next) (.ite .next .next)
  | rcvDatabit1 =>
    refine .ite (.andThen (fun s t u ht hu => ?_) .next) (.ite .next .next)
    rw [noteTolerance_withPromiscuous] at hu
    exact shiftIn_ignores (measuredBit s) ht hu
  | rcvDatabit2 => exact .ite .next (.ite .next .next)
  | rcvEom1 =>
    refine .ite (.withRoom (.next fun s => ?_)) (.ite .next .next)
    rw [noteTolerance_withPromiscuous]
    exact congrArg (goto .rcvEom2 _) (noteOverflow_withPromiscuous (inspectHeader (measuredBit s) (noteTolerance s)))
  | rcvEom2 => exact .ite (.ite .next .next) (.ite .next .next)
  | rcvAck2 => exact .ite .next (.ite .next .next)
  | rcvLineerror => exact .ite .next .next
  | xmitWait => exact .ite .next .next
  | xmitStartbit1 => exact .ite .next .next
  | xmitStartbit2 =>
    refine .ite (fun s t u ht hu => ?_) .next
    cases withTxBit_next ht
    cases withTxBit_next hu
    rfl
  | xmitDatabit1 => exact .ite .next .next
  | xmitDatabit2 => exact .ite (.ite .next (.comp sendDataBit_ignores)) .next
  | xmitEom1 => exact .ite .next .next
  | xmitEom2 => exact .ite .next .next
  | xmitAck1 => exact .ite .next .next
  | xmitAckTest => exact .ite (.withRoom resolveByte_ignores) .next
  | xmitAckWait => exact .ite .next .next
  | xmitAck2 => exact .ite (.comp sendDataBit_ignores) .next
  | rcvAckSent => exact absurd rfl hsent
  | rcvAck1 => exact absurd rfl hack

theorem arm_paired (p : Phase) : Paired b (AgreeButDelivery b) (exec p.arm) := by
  by_cases hsent : p = .rcvAckSent
  · subst hsent
    exact .ite (fun s t u ht hu => endBlock_paired _ (s := setLine .high s) ht hu) (Ignores.agree .next)
  by_cases hack : p = .rcvAck1
  · subst hack
    refine .ite (fun s t u ht hu => ?_) (Ignores.agree (.ite .next .next))
    rw [noteTolerance_withPromiscuous] at hu
    exact endBlock_paired _ (s := noteTolerance s) ht hu
  exact (arm_ignores hsent hack).agree

theorem dispatchArm_paired : Paired b (AgreeButDelivery b) dispatchArm := fun s t u ht hu => by
  cases h : decodePhase s.regs.st with
  | none => simp [dispatchArm, h] at ht
  | some p =>
    have hp := decodePhase_eq_some h
    rw [dispatchArm_eq_exec s hp] at ht
    rw [dispatchArm_eq_exec (s.withPromiscuous b) hp] at hu
    exact arm_paired p ht hu

theorem runStep_paired (n : Nat) : Paired b (AgreeButDelivery b) (runStep l n) :=
  .ite (Ignores.agree .next) (dispatchArm_paired.comp (prologue_withPromiscuous n))

theorem run_paired : Paired b (AgreeButDelivery b) (exec (.run l)) := fun s t u ht hu => by
  obtain ⟨hi, p, hp⟩ := execRun_next s t ht
  have hrun (v : State) (hv : v.regs.initialized = true) (hvp : v.regs.st = p.code) :
      exec (.run l) v = runStep l (portNow v) v := execRun_eq v l hv hvp
  rw [hrun s hi hp] at ht
  rw [hrun (s.withPromiscuous b) hi hp] at hu
  exact runStep_paired (portNow s) ht hu

/-- Settles O56: the settle, change and budget tests do not read the flag, and of the arms only a delivery does. -/
theorem promiscuousAffectsDeliveryOnly : Obligations.PromiscuousAffectsDeliveryOnly := by
  intro s t u l b ht hu
  obtain ⟨hregs, hdrives, hreports, hready⟩ := run_paired ht hu
  exact ⟨hregs, hdrives, hreports, hready⟩

end Sys2Proof.Machine
end

section
/-! PROOF. The buffers (spec/20_memory.md R37 to R41): the checked accesses, and a frame that is shifted in bit for bit in the order
it was sent. After `k` bits each byte holds those of its bits that have arrived, in their order, which is the byte sent
shifted right by the number of bits still missing. -/

namespace Sys2Proof.Machine

/-! ### The checked accesses -/

theorem withByte_outside {c : Config} {i : Nat} (m : Memory) (k : Byte → Result) (h : c.cap ≤ i) :
    withByte c m i k = .fault (.bufferIndex i) := by
  rw [withByte_eq, if_neg (Nat.not_lt.2 h)]

theorem withBytes_outside {c : Config} {n : Nat} (m : Memory) (k : List Byte → Result) (h : c.cap < n) :
    withBytes c m n k = .fault (.bufferIndex (n - 1)) := by
  rw [withBytes_eq, if_neg (Nat.not_le.2 h)]

theorem withRoom_outside {c : Config} {n : Nat} (r : Result) (h : c.cap < n) :
    withRoom c n r = .fault (.bufferIndex (n - 1)) := if_neg (Nat.not_le.2 h)

/-- Settles O42: a write is read back at its own index only, and every access outside the buffer faults. -/
theorem bufferAccess : Obligations.BufferAccess := by
  refine ⟨fun c m i v hm hi => ⟨Memory.write_wf m i v hm, ?_, fun j hj => ?_⟩,
    fun c m i k h => withByte_outside m k h,
    fun c m n k r h => ⟨withBytes_outside m k h, withRoom_outside r h⟩⟩
  · rw [memRead_eq _ _ _ hi, Memory.read_write m i i v hm, if_pos rfl]
  · rw [Memory.read_write m i j v hm, if_neg hj.symm]

/-! ### A frame shifted in -/

theorem shiftInAll_append (xs ys : List Bool) (s : State) :
    shiftInAll (xs ++ ys) s = andThen (shiftInAll xs s) (shiftInAll ys) := by
  induction xs generalizing s with
  | nil => rfl
  | cons x xs ih =>
    simp only [List.cons_append, shiftInAll]
    cases shiftIn x s with
    | next t => exact ih t
    | fault e => rfl
    | refused e => rfl

/-- Shifting in the next bit of a byte, most significant first, leaves one bit fewer missing (R40, R81). -/
theorem shiftByte_ushiftRight (b : Byte) {k : Nat} (hk : k < 8) :
    shiftByte (b >>> (8 - k)) (b.getLsbD (7 - k)) = b >>> (7 - k) := by
  refine BitVec.eq_of_getLsbD_eq fun i hi => ?_
  rw [shiftByte_getLsbD, BitVec.getLsbD_ushiftRight, BitVec.getLsbD_ushiftRight]
  cases i with
  | zero => simp
  | succ i => simp [hi, show 8 - k + i = 7 - k + (i + 1) by omega]

/-- The first `k` bits of the frame `m` in the order they go on the line (R40, R41). -/
def linePrefix (m : Memory) (k : Nat) : List Bool := (List.range k).map fun i => lineBit (m.read (i / 8)) i

theorem frameBits_eq_linePrefix (m : Memory) (n : Nat) : frameBits m n = linePrefix m (8 * n) := rfl

theorem linePrefix_succ (m : Memory) (k : Nat) :
    linePrefix m (k + 1) = linePrefix m k ++ [lineBit (m.read (k / 8)) k] := by
  rw [linePrefix, List.range_succ, List.map_append]
  rfl

/-- The receive buffer holds the first `k` bits of the frame `m`: of byte `j` the `8 - (k - 8 * j)` lowest bits are missing, none
where the byte is complete and all where none of it has arrived. -/
structure HoldsPrefix (m : Memory) (k : Nat) (s : State) : Prop where
  count : s.regs.rxBitCount = k
  wf    : s.regs.rxBuf.wf = true
  bytes : ∀ j, s.regs.rxBuf.read j = m.read j >>> (8 - (k - 8 * j))

variable {m : Memory} {k n : Nat} {s : State}

theorem HoldsPrefix.start (hbuf : s.regs.rxBuf = []) (hcount : s.regs.rxBitCount = 0) : HoldsPrefix m 0 s where
  count := hcount
  wf := by rw [hbuf]; rfl
  bytes j := by rw [hbuf, Nat.zero_sub, BitVec.ushiftRight_eq_zero (Nat.le_refl 8)]; rfl

/-- The next bit goes to the byte it belongs to, whose lower bits it leaves missing; every other byte stays (R81). -/
theorem HoldsPrefix.shiftIn (h : HoldsPrefix m k s) (hk : k < 8 * s.cfg.cap) :
    ∃ t, shiftIn (lineBit (m.read (k / 8)) k) s = .next t ∧ t.cfg = s.cfg ∧ HoldsPrefix m (k + 1) t := by
  obtain ⟨rfl, hwf, hbytes⟩ := h
  have hdiv : s.regs.rxBitCount >>> 3 = s.regs.rxBitCount / 8 := Nat.shiftRight_eq_div_pow ..
  refine ⟨_, shiftIn_eq s _ hk, rfl, rfl, Memory.write_wf _ _ _ hwf, fun j => ?_⟩
  simp only [hdiv]
  rw [Memory.read_write _ _ _ _ hwf]
  split_ifs with hj
  · subst hj
    have hmissing : 8 - (s.regs.rxBitCount - 8 * (s.regs.rxBitCount / 8)) = 8 - s.regs.rxBitCount % 8 := by omega
    have hless : 8 - (s.regs.rxBitCount + 1 - 8 * (s.regs.rxBitCount / 8)) = 7 - s.regs.rxBitCount % 8 := by omega
    rw [hbytes, hmissing, hless]
    exact shiftByte_ushiftRight _ (Nat.mod_lt _ (by decide))
  · rw [hbytes, show 8 - (s.regs.rxBitCount + 1 - 8 * j) = 8 - (s.regs.rxBitCount - 8 * j) by omega]

theorem shiftInAll_linePrefix (hbuf : s.regs.rxBuf = []) (hcount : s.regs.rxBitCount = 0) (hk : k ≤ 8 * s.cfg.cap) :
    ∃ t, shiftInAll (linePrefix m k) s = .next t ∧ t.cfg = s.cfg ∧ HoldsPrefix m k t := by
  induction k with
  | zero => exact ⟨s, rfl, rfl, .start hbuf hcount⟩
  | succ k ih =>
    obtain ⟨u, hu, hcfg, hprefix⟩ := ih (by omega)
    obtain ⟨t, ht, hcfg', hprefix'⟩ := hprefix.shiftIn (by rw [hcfg]; omega)
    refine ⟨t, ?_, hcfg'.trans hcfg, hprefix'⟩
    rw [linePrefix_succ, shiftInAll_append, hu, andThen_next, shiftInAll, ht]
    rfl

/-- Of a whole frame no bit of its bytes is missing, and every bit past them is. -/
theorem HoldsPrefix.frame (h : HoldsPrefix m (8 * n) s) :
    bytesOf s.regs.rxBuf n = bytesOf m n ∧ ∀ j, n ≤ j → s.regs.rxBuf.read j = 0 := by
  refine ⟨List.map_congr_left fun j hj => ?_, fun j hj => ?_⟩
  · have hlt := List.mem_range.1 hj
    rw [h.bytes, show 8 - (8 * n - 8 * j) = 0 by omega, BitVec.ushiftRight_zero]
  · rw [h.bytes, BitVec.ushiftRight_eq_zero (by omega)]
    rfl

/-- Settles O59, by induction on the number of bits shifted in. -/
theorem sentFrameIsReceived : Obligations.SentFrameIsReceived := by
  intro m n s hn hbuf hcount
  obtain ⟨t, ht, -, hprefix⟩ := shiftInAll_linePrefix (m := m) hbuf hcount (Nat.mul_le_mul_left 8 hn)
  exact ⟨t, by rw [frameBits_eq_linePrefix, ht], hprefix.count, hprefix.frame⟩

end Sys2Proof.Machine
end

section
/-! PROOF. Faults (spec/20_memory.md R39). What a fault of an arm can be is said once, in any state; from it follow that every
fault is an index out of range, and that the invariant leaves none. -/

namespace Sys2Proof.Machine

variable {c : Config} {s : State} {p : Phase} {e : Fault} {P : Fault → Prop} {r r' : Result}

/-! ### The faults an operation can make -/

/-- Where the outcome is a fault, it is one of `P`. -/
def FaultsOnly (P : Fault → Prop) (r : Result) : Prop := ∀ ⦃e⦄, r = .fault e → P e

theorem noFault_iff : NoFault r ↔ ∀ e, r ≠ .fault e := by
  cases r <;> simp [NoFault, faultOf]

theorem FaultsOnly.next : FaultsOnly P (.next s) := fun _ h => nomatch h

theorem FaultsOnly.fault (h : P e) : FaultsOnly P (.fault e) := fun _ he => Host.Outcome.fault.inj he ▸ h

theorem FaultsOnly.ite {b : Prop} [Decidable b] (h : FaultsOnly P r) (h' : FaultsOnly P r') :
    FaultsOnly P (if b then r else r') := by
  split_ifs
  · exact h
  · exact h'

theorem FaultsOnly.andThen {f : State → Result} (h : FaultsOnly P r) (hf : ∀ t, r = .next t → FaultsOnly P (f t)) :
    FaultsOnly P (andThen r f) := by
  cases hr : r with
  | next t => exact hf t hr
  | fault e => exact .fault (h hr)
  | refused x => exact fun _ he => nomatch he

theorem FaultsOnly.withByte {m : Memory} {i : Nat} {k : Byte → Result} (h : c.cap ≤ i → P (.bufferIndex i))
    (hk : ∀ b, FaultsOnly P (k b) := by exact fun _ => .next) : FaultsOnly P (withByte c m i k) := by
  rw [withByte_eq]
  split_ifs with hi
  · exact hk _
  · exact .fault (h (Nat.le_of_not_lt hi))

theorem FaultsOnly.withBytes {m : Memory} {n : Nat} {k : List Byte → Result} (h : c.cap < n → P (.bufferIndex (n - 1)))
    (hk : ∀ bs, FaultsOnly P (k bs) := by exact fun _ => .next) : FaultsOnly P (withBytes c m n k) := by
  rw [withBytes_eq]
  split_ifs with hn
  · exact hk _
  · exact .fault (h (Nat.lt_of_not_le hn))

theorem FaultsOnly.withRoom {n : Nat} (h : c.cap < n → P (.bufferIndex (n - 1))) (hr : FaultsOnly P r) :
    FaultsOnly P (withRoom c n r) := by
  unfold Machine.withRoom
  split_ifs with hn
  · exact hr
  · exact .fault (h (Nat.lt_of_not_le hn))

/-! ### The faults of the arms -/

/-- What a fault of the arm of protocol state `p` can be: the buffers have no room for a header, a received or a sent bit, a
delivered or a reported frame lies past a buffer's end, or the allocator has run past its candidate list. -/
inductive ArmFault (s : State) (p : Phase) : Fault → Prop
  | header (h : s.cfg.cap < 1) : ArmFault s p (.bufferIndex 0)
  | rxBit (hp : p = .rcvDatabit1) (h : s.cfg.cap ≤ s.regs.rxBitCount / 8) : ArmFault s p (.bufferIndex (s.regs.rxBitCount / 8))
  | delivery (h : s.cfg.cap < s.regs.rxBitCount / 8) : ArmFault s p (.bufferIndex (s.regs.rxBitCount / 8 - 1))
  | nextTxBit (hp : p = .xmitDatabit2) (hmod : (s.regs.txBitIndex + 1) % 8 ≠ 0)
      (h : s.cfg.cap ≤ (s.regs.txBitIndex + 1) / 8) : ArmFault s p (.bufferIndex ((s.regs.txBitIndex + 1) / 8))
  | firstTxBit (hp : p = .xmitAck2) (h : s.cfg.cap ≤ s.regs.txBitIndex / 8) : ArmFault s p (.bufferIndex (s.regs.txBitIndex / 8))
  | report (h : s.cfg.cap < s.regs.txByteCount) : ArmFault s p (.bufferIndex (s.regs.txByteCount - 1))
  | candidate {i : Nat} (hal : s.regs.allocating = true) (hi : i = s.regs.candIdx ∨ i = s.regs.candIdx + 1)
      (h : (candidatesFor s)[i]? = none) : ArmFault s p (.candidateIndex i)

theorem shiftIn_faults {b : Bool}
    (h : s.cfg.cap ≤ s.regs.rxBitCount / 8 → P (.bufferIndex (s.regs.rxBitCount / 8))) : FaultsOnly P (shiftIn b s) := by
  rw [shiftIn, Nat.shiftRight_eq_div_pow]
  exact .withByte h

theorem withTxBit_faults {i : Nat} {k : Bool → Result} (h : s.cfg.cap ≤ i / 8 → P (.bufferIndex (i / 8)))
    (hk : ∀ b, FaultsOnly P (k b) := by exact fun _ => .next) : FaultsOnly P (withTxBit s i k) := by
  rw [withTxBit, Nat.shiftRight_eq_div_pow]
  exact .withByte h fun _ => hk _

theorem endBlock_faults {ends : Bool}
    (h : s.cfg.cap < s.regs.rxBitCount / 8 → P (.bufferIndex (s.regs.rxBitCount / 8 - 1))) :
    FaultsOnly P (endBlock ends s) := .ite (.ite (.withBytes h) .next) .next

theorem reportAndDrop_faults (b : Bool)
    (h : s.cfg.cap < s.regs.txByteCount → P (.bufferIndex (s.regs.txByteCount - 1))) :
    FaultsOnly P (reportAndDrop b s) := .withBytes h

/-- The allocator stops where its list ends before the candidate it takes or the one it probes next (R114, R115). -/
theorem stepIfAllocating_faults (b : Bool) (hroom : s.cfg.cap < 1 → P (.bufferIndex 0))
    (hlist : s.regs.allocating = true → ∀ i, i = s.regs.candIdx ∨ i = s.regs.candIdx + 1 →
      (candidatesFor s)[i]? = none → P (.candidateIndex i)) : FaultsOnly P (stepIfAllocating b s) := by
  unfold stepIfAllocating
  split_ifs with hal
  case neg => exact .next
  refine .ite ?_ ?_
  · cases h : (candidatesFor s)[s.regs.candIdx + 1]? with
    | none =>
      rw [allocAdvance_eq_fault s h]
      exact .fault (hlist hal _ (.inr rfl) h)
    | some a =>
      rw [allocAdvance_eq s h]
      exact .ite .next (.withRoom hroom .next)
  · cases h : (candidatesFor s)[s.regs.candIdx]? with
    | none =>
      simp only [allocClaim, h]
      exact .fault (hlist hal _ (.inl rfl) h)
    | some a =>
      rw [allocClaim_eq s h]
      exact .next

theorem failAttempt_faults : FaultsOnly (ArmFault s p) (failAttempt s) := by
  refine .ite (.andThen (reportAndDrop_faults false fun h => .report h) fun t ht => ?_)
    (.ite .next (reportAndDrop_faults false fun h => .report h))
  cases reportAndDrop_next ht
  exact stepIfAllocating_faults false (fun h => .header h) fun hal i hi h => .candidate hal hi h

theorem succeed_faults : FaultsOnly (ArmFault s p) (succeed s) := by
  refine .andThen (reportAndDrop_faults true fun h => .report h) fun t ht => ?_
  cases reportAndDrop_next ht
  exact stepIfAllocating_faults true (fun h => .header h) fun hal i hi h => .candidate hal hi h

/-- The faults of the arms, in any state. An arm that accesses no buffer has none. -/
theorem exec_arm_faults (p : Phase) (s : State) : FaultsOnly (ArmFault s p) (exec p.arm s) := by
  cases p with
  | idle => exact .ite .next (.ite .next .next)
  | rcvStartbit1 => exact .ite (.ite .next .next) (.ite .next .next)
  | rcvStartbit2 => exact .ite (.ite .next .next) (.ite .next .next)
  | rcvDatabit1 =>
    refine .ite (.andThen (shiftIn_faults ?_) fun _ _ => .next) (.ite .next .next)
    rw [noteTolerance_regs, noteTolerance_cfg]
    exact .rxBit rfl
  | rcvDatabit2 => exact .ite .next (.ite .next .next)
  | rcvEom1 => exact .ite (.withRoom .header .next) (.ite .next .next)
  | rcvEom2 => exact .ite (.ite .next .next) (.ite .next .next)
  | rcvAckSent => exact .ite (endBlock_faults fun h => .delivery h) .next
  | rcvAck1 =>
    refine .ite (endBlock_faults ?_) (.ite .next .next)
    rw [noteTolerance_regs, noteTolerance_cfg]
    exact .delivery
  | rcvAck2 => exact .ite .next (.ite .next .next)
  | rcvLineerror => exact .ite .next .next
  | xmitWait => exact .ite .next .next
  | xmitStartbit1 => exact .ite .next .next
  | xmitStartbit2 => exact .ite (withTxBit_faults fun h => .header (Nat.lt_succ_of_le h)) .next
  | xmitDatabit1 => exact .ite .next .next
  | xmitDatabit2 =>
    refine .ite ?_ .next
    split_ifs with hmod
    · exact .next
    · exact withTxBit_faults fun h => .nextTxBit rfl hmod h
  | xmitEom1 => exact .ite .next .next
  | xmitEom2 => exact .ite .next .next
  | xmitAck1 => exact .ite .next .next
  | xmitAckTest =>
    exact .ite (.withRoom .header (.ite (.andThen failAttempt_faults fun _ _ => .next)
      (.ite (.andThen succeed_faults fun _ _ => .next) .next))) .next
  | xmitAckWait => exact .ite .next .next
  | xmitAck2 => exact .ite (withTxBit_faults fun h => .firstTxBit rfl h) .next

theorem ArmFault.outOfRange (h : ArmFault s p e) :
    (∃ i, s.cfg.cap ≤ i ∧ e = .bufferIndex i) ∨
      ∃ i, (s.cfg.candidatesOf s.regs.devType)[i]? = none ∧ e = .candidateIndex i := by
  cases h with
  | header h => exact .inl ⟨_, Nat.le_of_lt_succ h, rfl⟩
  | rxBit _ h => exact .inl ⟨_, h, rfl⟩
  | delivery h => exact .inl ⟨_, Nat.le_sub_one_of_lt h, rfl⟩
  | nextTxBit _ _ h => exact .inl ⟨_, h, rfl⟩
  | firstTxBit _ h => exact .inl ⟨_, h, rfl⟩
  | report h => exact .inl ⟨_, Nat.le_sub_one_of_lt h, rfl⟩
  | candidate _ _ h => exact .inr ⟨_, h, rfl⟩

/-- A received bit has no byte to go to when the buffer is full (R39, R81). -/
theorem shiftIn_full (b : Bool) (hfull : 8 * s.cfg.cap ≤ s.regs.rxBitCount) :
    shiftIn b s = .fault (.bufferIndex (s.regs.rxBitCount / 8)) := by
  rw [shiftIn, Nat.shiftRight_eq_div_pow]
  exact withByte_outside _ _ (show s.cfg.cap ≤ s.regs.rxBitCount / 8 by omega)

theorem execArmRcvDatabit1_full (hc : s.arm.changed = true) (hfull : 8 * s.cfg.cap ≤ s.regs.rxBitCount) :
    execArmRcvDatabit1 s = .fault (.bufferIndex (s.regs.rxBitCount / 8)) := by
  rw [execArmRcvDatabit1, if_pos hc, shiftIn_full _ (by simpa using hfull), andThen_fault, noteTolerance_regs]

/-- Settles O43: by the faults of the arms. -/
theorem armsFaultOnlyOutOfRange : Obligations.ArmsFaultOnlyOutOfRange :=
  ⟨fun p s _ he => (exec_arm_faults p s he).outOfRange, fun _ hc hfull => execArmRcvDatabit1_full hc hfull⟩

/-! ### The invariant leaves no fault -/

/-- The invariant keeps the counters within the buffers and the allocator within its list (R30, R32, R33, R114). -/
theorem Regs.InvAt.not_armFault (hs : s.regs.InvAt s.cfg p) (hc : s.cfg.ok = true) : ¬ ArmFault s p e := by
  have hcap := cap_pos hc
  have hrx := hs.counters.rxBits
  have htx := hs.counters.txBytes
  intro h
  cases h with
  | header h => omega
  | rxBit hp h =>
    subst hp
    have hroom : s.regs.rxBitCount < 8 * s.cfg.cap := hs.rx
    omega
  | delivery h => omega
  | nextTxBit hp hmod h =>
    subst hp
    have hmore : s.regs.txBitIndex < 8 * s.regs.txByteCount := hs.tx
    omega
  | firstTxBit hp h =>
    subst hp
    obtain ⟨-, -, hmore⟩ := hs.tx
    omega
  | report h => omega
  | candidate hal hi h =>
    obtain ⟨-, -, -, a, ha, hne, -⟩ := hs.allocator.probing hal
    rcases hi with rfl | rfl
    · cases h.symm.trans ha
    · obtain ⟨b, hb⟩ := candidate_next hc ha hne
      cases h.symm.trans hb

theorem exec_arm_noFault (hs : s.regs.InvAt s.cfg p) (hc : s.cfg.ok = true) : NoFault (exec p.arm s) :=
  noFault_iff.2 fun _ he => hs.not_armFault hc (exec_arm_faults p s he)

/-- The record of a line change and the abort keep the invariant (R67, R71). -/
theorem prologue_invAt {l : Level} {n : Nat} (hs : s.regs.InvAt s.cfg p) (hc : s.cfg.ok = true)
    (hi : s.regs.initialized = true) (hn : n < 2 ^ s.cfg.timeWidth) :
    ∃ q, (prologue l n s).regs.InvAt s.cfg q := by
  have hseen := hs.observe hi hn l
  rw [prologue, latchArm_regs]
  by_cases hl : l = s.regs.lastLineState
  · rw [hl, detect_same]
    exact ⟨p, hs⟩
  · rw [detect_changed s n hl]
    split_ifs
    · rw [abort_regs]
      exact ⟨.idle, Regs.Sound.invAt_idle { hseen.sound hc hi with } rfl rfl rfl⟩
    · exact ⟨p, hseen⟩

theorem run_noFault (h : s.Inv) (l : Level) : NoFault (exec (.run l) s) := by
  obtain ⟨hc, p, hs⟩ := h
  by_cases hi : s.regs.initialized = true
  case neg => simp only [exec, execRun, hi]; rfl
  have hn : portNow s < 2 ^ s.cfg.timeWidth := Nat.mod_lt _ (Nat.two_pow_pos _)
  obtain ⟨q, hq⟩ := prologue_invAt (l := l) hs hc hi hn
  have hcfg : (prologue l (portNow s) s).cfg = s.cfg := by simp [prologue]
  rw [exec, execRun_eq s l hi hs.state]
  split_ifs
  · rfl
  · rw [dispatchArm_eq_exec _ hq.state]
    exact exec_arm_noFault (hcfg ▸ hq) (hcfg ▸ hc)

theorem withRoom_noFault {n : Nat} (h : n ≤ c.cap) : NoFault (withRoom c n (.next s)) := by
  rw [withRoom_eq _ h]
  rfl

theorem init_noFault (hc : s.cfg.ok = true) (pa : BitVec 16) (dtype : BitVec 3) (prom mon : Bool) :
    NoFault (exec (.init pa dtype prom mon) s) := by
  simp only [exec, execInit]
  split_ifs
  · rfl
  · rcases allocStart_cases (configure pa dtype prom mon s) with h | ⟨a, rest, -, -, -, h⟩ <;> rw [h]
    · rfl
    · exact withRoom_noFault (cap_pos hc)

theorem xmit_noFault (hc : s.cfg.ok = true) (target : LogAddr) (len : BitVec 5) : NoFault (exec (.xmit target len) s) := by
  have hcap := maxPayload_add_one hc
  cases hla : s.regs.la with
  | none =>
    simp only [exec, execXmit, hla]
    rfl
  | some a =>
    simp only [exec, execXmit, hla]
    split_ifs with hm hempty hlen
    · rfl
    · rfl
    · rfl
    · exact withRoom_noFault (by omega)

theorem performOp_noFault (h : s.Inv) (op : HostOp) : NoFault (performOp op s) := by
  unfold performOp
  split_ifs
  · rfl
  · rfl
  split
  next i hd =>
    rcases decodeCommand_cases hd with ⟨-, -, pa, dtype, prom, mon, rfl⟩ | ⟨-, -, target, len, rfl⟩ | ⟨-, -, l, rfl⟩
    · exact init_noFault (s := s.accept op) h.1 pa dtype prom mon
    · exact xmit_noFault (s := s.accept op) h.1 target len
    · exact run_noFault (s := s.accept op) h l
  all_goals rfl

theorem step_noFault (h : s.Inv) : NoFault (step s) := by
  unfold step
  split
  · unfold inert
    split_ifs <;> rfl
  · next op rest _ => exact performOp_noFault (s := { s with inbox := rest }) h op

/-- Settles O47: every reachable state meets the invariant. -/
theorem reachableNeverFaults : Obligations.ReachableNeverFaults := fun _ h => step_noFault h.inv

end Sys2Proof.Machine
end

section
/-! PROOF. The encoding of the block's words (spec/30_encoding.md R51 to R57): decoding is the inverse of encoding in both directions, the
words and codes that decode to nothing are the reserved ones, and a step runs the operation its word decodes to. A command word is the
bitwise or of its placed fields, so that a field is read back from the one term that holds it. -/

namespace Sys2Proof.Machine

variable {cw : BitVec 32} {s : State} {n m lo lo' : Nat} {i : Instr}

/-! ### Fields of a command word -/

theorem extractLsb'_placeField (v : BitVec n) (h : lo + n ≤ 32) : (placeField v lo).extractLsb' lo n = v :=
  BitVec.eq_of_getLsbD_eq fun k hk => by
    rw [BitVec.getLsbD_extractLsb', placeField_getLsbD]
    simp [hk, show lo + k < 32 by omega]

theorem extractLsb'_placeField_disjoint (v : BitVec n) (h : lo + n ≤ lo' ∨ lo' + m ≤ lo) :
    (placeField v lo).extractLsb' lo' m = 0 :=
  BitVec.eq_of_getLsbD_eq fun k hk => by
    rw [BitVec.getLsbD_extractLsb', placeField_getLsbD]
    rcases h with h | h
    · simp [BitVec.getLsbD_of_ge v (lo' + k - lo) (by omega)]
    · simp [show ¬lo ≤ lo' + k by omega]

theorem extractLsb'_eq_zero_iff :
    cw.extractLsb' lo n = 0 ↔ ∀ k, lo ≤ k → k < lo + n → cw.getLsbD k = false := by
  constructor
  · intro h k hlo hhi
    have hbit := congrArg (BitVec.getLsbD · (k - lo)) h
    simpa [show k - lo < n by omega, Nat.add_sub_cancel' hlo] using hbit
  · intro h
    refine BitVec.eq_of_getLsbD_eq fun k hk => ?_
    simp [hk, h (lo + k) (by omega) (by omega)]

/-- A mask with ones in a field tests that field. -/
theorem and_fieldMask_eq_zero_iff (h : lo + n ≤ 32) :
    cw &&& placeField (BitVec.allOnes n) lo = 0 ↔ cw.extractLsb' lo n = 0 := by
  have hmask (k : Nat) : (placeField (BitVec.allOnes n) lo).getLsbD k = decide (lo ≤ k ∧ k < lo + n) := by
    rw [placeField_getLsbD, BitVec.getLsbD_allOnes, ← Bool.decide_and, ← Bool.decide_and]
    exact decide_eq_decide.2 (by omega)
  rw [extractLsb'_eq_zero_iff]
  constructor
  · intro hz k hlo hhi
    have hbit := congrArg (BitVec.getLsbD · k) hz
    simpa only [BitVec.getLsbD_and, hmask, hlo, hhi, and_self, decide_true, Bool.and_true, BitVec.ofNat_eq_ofNat,
      BitVec.getLsbD_zero] using hbit
  · refine fun hz => Laws.and_eq_of_bits fun k _ => ?_
    rw [hmask]
    by_cases hin : lo ≤ k ∧ k < lo + n
    · simp [hz k hin.1 hin.2]
    · simp [hin]

/-! ### The decoder, opcode by opcode -/

/-- The opcode is the two low bits (R51). -/
theorem opcode_eq_bits (cw : BitVec 32) :
    cw &&& 0x3 = placeField (BitVec.ofBool (cw.getLsbD 1)) 1 ||| placeField (BitVec.ofBool (cw.getLsbD 0)) 0 :=
  Laws.and_eq_of_bits fun k hk => by
    rw [BitVec.getLsbD_or, placeField_getLsbD, placeField_getLsbD]
    interval_cases k <;> simp

theorem decodeCommand_opcode00 (h1 : cw.getLsbD 1 = false) (h0 : cw.getLsbD 0 = false) :
    decodeCommand cw = .reservedOpcode := by simp only [decodeCommand, h1, h0]

theorem decodeCommand_opcode01 (h1 : cw.getLsbD 1 = false) (h0 : cw.getLsbD 0 = true) :
    decodeCommand cw = decodeInit cw := by simp only [decodeCommand, h1, h0]

theorem decodeCommand_opcode10 (h1 : cw.getLsbD 1 = true) (h0 : cw.getLsbD 0 = false) :
    decodeCommand cw = decodeXmit cw := by simp only [decodeCommand, h1, h0]

theorem decodeCommand_opcode11 (h1 : cw.getLsbD 1 = true) (h0 : cw.getLsbD 0 = true) :
    decodeCommand cw = decodeRun cw := by simp only [decodeCommand, h1, h0]

theorem decodeInit_eq_accept : decodeInit cw = .accept i ↔ cw.extractLsb' 7 9 = 0 ∧
    .init (cw.extractLsb' 16 16) (cw.extractLsb' 2 3) (cw.getLsbD 5) (cw.getLsbD 6) = i := by
  unfold decodeInit
  split_ifs with h <;> simp only [h, Decoded.accept.injEq, true_and, false_and]

theorem decodeXmit_eq_accept : decodeXmit cw = .accept i ↔
    cw.extractLsb' 11 21 = 0 ∧ .xmit (cw.extractLsb' 2 4) (cw.extractLsb' 6 5) = i := by
  unfold decodeXmit
  split_ifs with h <;> simp only [h, Decoded.accept.injEq, true_and, false_and]

theorem decodeRun_eq_accept : decodeRun cw = .accept i ↔
    cw.extractLsb' 3 29 = 0 ∧ .run (levelOfBit (cw.getLsbD 2)) = i := by
  unfold decodeRun
  split_ifs with h <;> simp only [h, Decoded.accept.injEq, true_and, false_and]

/-- A state code selects the arm of its state (R56). -/
theorem decodeStateCode_eq_accept {c : StateCode} : decodeStateCode c = .accept i ↔ ∃ p : Phase, c = p.code ∧ p.arm = i := by
  unfold decodeStateCode
  constructor
  · intro h
    split at h
    · next p hp => exact ⟨p, decodePhase_eq_some hp, Decoded.accept.inj h⟩
    · cases h
  · rintro ⟨p, rfl, rfl⟩
    rw [decodePhase_code]

/-! ### Decode of encode -/

theorem encodeInit_bits (pa : BitVec 16) (dtype : BitVec 3) (prom mon : Bool) :
    (encodeInit pa dtype prom mon).getLsbD 1 = false ∧ (encodeInit pa dtype prom mon).getLsbD 0 = true ∧
    (encodeInit pa dtype prom mon).getLsbD 5 = prom ∧ (encodeInit pa dtype prom mon).getLsbD 6 = mon := by
  simp only [encodeInit, BitVec.getLsbD_or, placeField_getLsbD]
  simp

theorem encodeXmit_opcode (target : LogAddr) (len : BitVec 5) :
    (encodeXmit target len).getLsbD 1 = true ∧ (encodeXmit target len).getLsbD 0 = false := by
  simp only [encodeXmit, BitVec.getLsbD_or, placeField_getLsbD]
  simp

theorem decodeCommand_encodeInit (pa : BitVec 16) (dtype : BitVec 3) (prom mon : Bool) :
    decodeCommand (encodeInit pa dtype prom mon) = .accept (.init pa dtype prom mon) := by
  obtain ⟨h1, h0, hprom, hmon⟩ := encodeInit_bits pa dtype prom mon
  rw [decodeCommand_opcode01 h1 h0, decodeInit_eq_accept, hprom, hmon]
  simp [encodeInit, BitVec.extractLsb'_or, extractLsb'_placeField, extractLsb'_placeField_disjoint]

theorem decodeCommand_encodeXmit (target : LogAddr) (len : BitVec 5) :
    decodeCommand (encodeXmit target len) = .accept (.xmit target len) := by
  obtain ⟨h1, h0⟩ := encodeXmit_opcode target len
  rw [decodeCommand_opcode10 h1 h0, decodeXmit_eq_accept]
  simp [encodeXmit, BitVec.extractLsb'_or, extractLsb'_placeField, extractLsb'_placeField_disjoint]

theorem decodeCommand_encodeRun (l : Level) : decodeCommand (encodeRun l) = .accept (.run l) := by cases l <;> rfl

/-- Settles O5: by the fields of the three command words, and the arms by their codes. -/
theorem decodeEncodeAgree : Obligations.DecodeEncodeAgree := by
  intro i
  cases i with
  | init pa dtype prom mon => exact decodeCommand_encodeInit pa dtype prom mon
  | xmit target len => exact decodeCommand_encodeXmit target len
  | run l => exact decodeCommand_encodeRun l
  | _ => rfl

/-! ### Encode of decode -/

theorem bitOfLevel_levelOfBit (b : Bool) : bitOfLevel (levelOfBit b) = b := by cases b <;> rfl

/-- Each bit of an INIT word stands in one of its fields, the opcode or the reserved bits (R52). The bits are kept in the `getLsbD`
spelling, in which `hr` speaks of the reserved ones. -/
theorem encodeInit_fields (h1 : cw.getLsbD 1 = false) (h0 : cw.getLsbD 0 = true) (hr : cw.extractLsb' 7 9 = 0) :
    encodeInit (cw.extractLsb' 16 16) (cw.extractLsb' 2 3) (cw.getLsbD 5) (cw.getLsbD 6) = cw := by
  rw [extractLsb'_eq_zero_iff] at hr
  refine BitVec.eq_of_getLsbD_eq fun k hk => ?_
  simp only [encodeInit, BitVec.getLsbD_or, placeField_getLsbD, BitVec.getLsbD_extractLsb']
  interval_cases k <;> simp [-BitVec.getLsbD_eq_getElem, hr, h1, h0]

/-- As for INIT, with the fields of XMIT (R53). -/
theorem encodeXmit_fields (h1 : cw.getLsbD 1 = true) (h0 : cw.getLsbD 0 = false) (hr : cw.extractLsb' 11 21 = 0) :
    encodeXmit (cw.extractLsb' 2 4) (cw.extractLsb' 6 5) = cw := by
  rw [extractLsb'_eq_zero_iff] at hr
  refine BitVec.eq_of_getLsbD_eq fun k hk => ?_
  simp only [encodeXmit, BitVec.getLsbD_or, placeField_getLsbD, BitVec.getLsbD_extractLsb']
  interval_cases k <;> simp [-BitVec.getLsbD_eq_getElem, hr, h1, h0]

/-- As for INIT, with the field of RUN (R54). -/
theorem encodeRun_fields (h1 : cw.getLsbD 1 = true) (h0 : cw.getLsbD 0 = true) (hr : cw.extractLsb' 3 29 = 0) :
    encodeRun (levelOfBit (cw.getLsbD 2)) = cw := by
  rw [extractLsb'_eq_zero_iff] at hr
  refine BitVec.eq_of_getLsbD_eq fun k hk => ?_
  simp only [encodeRun, BitVec.getLsbD_or, placeField_getLsbD, bitOfLevel_levelOfBit]
  interval_cases k <;> simp [-BitVec.getLsbD_eq_getElem, hr, h1, h0]

/-- A command word that decodes carries no ignored bit (R51, R55). -/
theorem encode_of_decodeCommand (h : decodeCommand cw = .accept i) : encode i = .command cw := by
  cases h1 : cw.getLsbD 1 <;> cases h0 : cw.getLsbD 0
  · rw [decodeCommand_opcode00 h1 h0] at h
    cases h
  · rw [decodeCommand_opcode01 h1 h0, decodeInit_eq_accept] at h
    obtain ⟨hr, rfl⟩ := h
    exact congrArg _ (encodeInit_fields h1 h0 hr)
  · rw [decodeCommand_opcode10 h1 h0, decodeXmit_eq_accept] at h
    obtain ⟨hr, rfl⟩ := h
    exact congrArg _ (encodeXmit_fields h1 h0 hr)
  · rw [decodeCommand_opcode11 h1 h0, decodeRun_eq_accept] at h
    obtain ⟨hr, rfl⟩ := h
    exact congrArg _ (encodeRun_fields h1 h0 hr)

/-- The word of an arm is its state's code (R56). -/
theorem encode_arm (p : Phase) : encode p.arm = .stateCode p.code := by cases p <;> rfl

/-- Settles O6: by the opcode of a command word, and by the state of a code. -/
theorem encodeDecodeAgree : Obligations.EncodeDecodeAgree := by
  rintro (cw | c) i h
  · exact encode_of_decodeCommand h
  · obtain ⟨p, rfl, rfl⟩ := decodeStateCode_eq_accept.1 h
    exact encode_arm p

/-! ### Reserved words -/

/-- The masks of R55 pick out exactly the words no opcode's decoder accepts. -/
theorem reservedWord_iff (cw : BitVec 32) : reservedWord cw = true ↔ ∀ i, decodeCommand cw ≠ .accept i := by
  have hinit : cw &&& 0x0000FF80 = 0 ↔ cw.extractLsb' 7 9 = 0 := and_fieldMask_eq_zero_iff (n := 9) (lo := 7) (by decide)
  have hxmit : cw &&& 0xFFFFF800 = 0 ↔ cw.extractLsb' 11 21 = 0 := and_fieldMask_eq_zero_iff (n := 21) (lo := 11) (by decide)
  have hrun : cw &&& 0xFFFFFFF8 = 0 ↔ cw.extractLsb' 3 29 = 0 := and_fieldMask_eq_zero_iff (n := 29) (lo := 3) (by decide)
  simp only [reservedWord, opcode_eq_bits, ne_eq, hinit, hxmit, hrun]
  cases h1 : cw.getLsbD 1 <;> cases h0 : cw.getLsbD 0
  · simp [placeField, decodeCommand_opcode00 h1 h0]
  · simp [placeField, decodeCommand_opcode01 h1 h0, decodeInit_eq_accept]
  · simp [placeField, decodeCommand_opcode10 h1 h0, decodeXmit_eq_accept]
  · simp [placeField, decodeCommand_opcode11 h1 h0, decodeRun_eq_accept]

/-- A word that decodes to nothing is refused as RESERVED_CMD once the parameters are legal and nothing overlaps (R55, R127). -/
theorem performOp_reserved {op : HostOp} (hc : s.cfg.ok = true) (ho : op.overlap = false)
    (hd : ∀ i, decodeCommand op.cw ≠ .accept i) : performOp op s = .refused .reservedCmd := by
  cases h : decodeCommand op.cw with
  | accept i => exact absurd h (hd i)
  | _ => simp [performOp, hc, ho, h]

/-- Settles O7: by the opcode, with the masks of the reserved bits. -/
theorem reservedWordsAreRefused : Obligations.ReservedWordsAreRefused := by
  refine ⟨reservedWord_iff, fun x op hc ho hr => ?_⟩
  rw [Session.perform, performOp_reserved hc ho ((reservedWord_iff op.cw).1 hr)]

/-! ### Reserved state codes -/

theorem code_lt (p : Phase) : p.code.toNat < 22 := by
  rw [← not_le, ← decodePhase_eq_none, decodePhase_code]
  simp

/-- Settles O8: a reachable state holds the code of a protocol state, by the invariant. -/
theorem reservedStateCodes : Obligations.ReservedStateCodes := by
  refine ⟨decodePhase_eq_none, fun s hs => ?_, fun s l hi hc => ?_⟩
  · obtain ⟨-, p, hp⟩ := hs.inv
    exact hp.state ▸ code_lt p
  · have hnone := (decodePhase_eq_none s.regs.st).2 hc
    simp [exec, execRun, hi, hnone]

/-! ### The step -/

/-- Settles O3: by the head of the queue, and R136 when it is empty. -/
theorem stepRunsDecodedOperation : Obligations.StepRunsDecodedOperation := by
  refine ⟨fun s op rest i hq hc ho hd => ?_, fun s hq hc => ?_⟩
  · rw [step, hq]
    exact performOp_eq { s with inbox := rest } hc ho hd
  · rw [step, hq]
    simp [inert, hc]

/-- Settles O4: each word evaluated. -/
theorem workedWordsDecode : Obligations.WorkedWordsDecode := by
  unfold Obligations.WorkedWordsDecode
  decide

end Sys2Proof.Machine
end

section
/-! PROOF. The RUN step (spec/40_run_step.md R65 to R73): the settle window and the budget test, the state the arm is handed in each case
of the prologue, and what RUN is in that case. -/

namespace Sys2Proof.Machine

variable {s : State} {p : Phase} {l : Level} {n d : Nat}

/-! ### The settle test and the budget test -/

theorem elapsedAt_some (h : s.regs.waitTime = some d) (n : Nat) :
    elapsedAt s n = decide (d ≤ timeDiff s.cfg n s.regs.bitStartTime) := by simp only [elapsedAt, h]

theorem elapsedAt_eq_false (h : ∀ d, s.regs.waitTime = some d → timeDiff s.cfg n s.regs.bitStartTime < d) :
    elapsedAt s n = false := by
  rw [Bool.eq_false_iff, ne_eq, elapsedAt_iff]
  rintro ⟨d, hd, hle⟩
  exact (h d hd).not_ge hle

/-- Past the settle window the settle test fails (R66). -/
theorem settleMasks_eq_false (h : settleTime s.cfg s.regs.lastLineState ≤ timeDiff s.cfg n s.regs.lineSetTime) :
    settleMasks s n = false := decide_eq_false h.not_gt

/-- Settles O19: the two times of the example lie on either side of the wrap, 600 and 599 after the bit's start. -/
theorem budgetTest : Obligations.BudgetTest := by
  refine ⟨elapsedAt_iff, fun s hwidth hstart hwait => ?_⟩
  have hdiff {n : Nat} (hn : n < 0xFFFFFF00) : timeDiff s.cfg n s.regs.bitStartTime = n + 2 ^ 32 - 0xFFFFFF00 := by
    rw [hstart, timeDiff_of_lt (by rw [hwidth]; decide) hn, hwidth]
  rw [elapsedAt_some hwait, elapsedAt_some hwait, hdiff (by decide), hdiff (by decide)]
  decide

/-! ### The arbitration-checked states -/

/-- The nine states of R70, listed. -/
theorem arbitrated_eq_mem (p : Phase) : arbitrated p = decide (p ∈ [Phase.xmitWait, .xmitStartbit1, .xmitStartbit2,
    .xmitDatabit1, .xmitDatabit2, .xmitEom1, .xmitEom2, .xmitAck1, .xmitAck2]) := by cases p <;> rfl

/-- `ARB_STATES` leaves out the acknowledge test and wait only (R70). -/
theorem arbitrated_of_isTransmit (h : isTransmit p = true) (htest : p ≠ .xmitAckTest) (hwait : p ≠ .xmitAckWait) :
    arbitrated p = true := by
  revert h htest hwait
  cases p <;> decide

/-! ### The prologue -/

/-- The abort's effect on the whole state (R71). -/
theorem abort_eq_after (s : State) : abort s = s.after
    { s.regs with st := Phase.code .idle, waitTime := some 0, lineOut := .high }
    (if s.regs.lineOut = .low then [.setLine .high] else []) [.txArbitration] := by
  rw [State.after, ← abort_regs, ← abort_out, ← abort_cfg, ← abort_inbox, ← abort_op, ← abort_arm]

theorem prologue_same (s : State) (n : Nat) :
    prologue s.regs.lastLineState n s = latchArm s.regs.lastLineState n false s := by
  rw [prologue, detect_same, lineChanged]
  simp

/-- A change is recorded, and aborts the attempt in an arbitration-checked state (R67, R71). -/
theorem prologue_changed (hp : s.regs.st = p.code) (hl : l ≠ s.regs.lastLineState) :
    prologue l n s = latchArm l n true (if arbitrated p then abort (observe l n s) else observe l n s) := by
  rw [prologue, detect_changed s n hl, inArbStates_eq s hp, lineChanged, decide_eq_true hl]

/-- The budget of `IDLE` has always elapsed (R27, R71). -/
theorem elapsedAt_abort (s : State) (n : Nat) : elapsedAt (abort s) n = true := by
  rw [elapsedAt_iff, abort_regs]
  exact ⟨0, rfl, Nat.zero_le _⟩

/-! ### RUN, case by case of the prologue -/

section Run

variable (hi : s.regs.initialized = true) (hp : s.regs.st = p.code)
include hi hp

theorem run_of_isQuiet (h : isQuiet l (portNow s) s = true) : exec (.run l) s = .next s := by
  rw [exec, execRun_eq s l hi hp, if_pos h]

theorem run_of_not_isQuiet (h : isQuiet l (portNow s) s = false) :
    exec (.run l) s = dispatchArm (prologue l (portNow s) s) := by
  rw [exec, execRun_eq s l hi hp, h]
  rfl

theorem run_same (h : isQuiet s.regs.lastLineState (portNow s) s = false) :
    exec (.run s.regs.lastLineState) s = exec p.arm (latchArm s.regs.lastLineState (portNow s) false s) := by
  rw [run_of_not_isQuiet hi hp h, prologue_same]
  exact dispatchArm_eq_exec _ hp

variable (hs : settleMasks s (portNow s) = false) (hl : l ≠ s.regs.lastLineState)
include hs hl

theorem run_changed (ha : arbitrated p = false) :
    exec (.run l) s = exec p.arm (latchArm l (portNow s) true (observe l (portNow s) s)) := by
  rw [run_of_not_isQuiet hi hp (isQuiet_eq_false s hs (.inl hl)), prologue_changed hp hl, ha]
  exact dispatchArm_eq_exec _ hp

theorem run_aborts (ha : arbitrated p = true) :
    exec (.run l) s = exec .armIdle (latchArm l (portNow s) true (abort (observe l (portNow s) s))) := by
  rw [run_of_not_isQuiet hi hp (isQuiet_eq_false s hs (.inl hl)), prologue_changed hp hl, if_pos ha]
  exact dispatchArm_eq_exec (p := .idle) _ (by rw [latchArm_regs, abort_regs])

end Run

/-! ### The statements about RUN -/

/-- Settles O13: the settle test comes first. -/
theorem settleWindowMasksRun : Obligations.SettleWindowMasksRun := fun s l p hi hp h =>
  run_of_isQuiet hi hp (by rw [isQuiet, (settleMasks_iff s (portNow s)).2 h, Bool.true_or])

/-- The `IDLE` arm with no change and no frame it may start (R76). -/
theorem execArmIdle_rests (hc : s.arm.changed = false)
    (h : s.arm.line = .low ∨ s.regs.txByteCount = 0 ∨ s.regs.monitor = true) : execArmIdle s = .next s := by
  have hfall : ¬(s.arm.changed = true ∧ s.arm.line = .low) := by simp [hc]
  have hstart : ¬(s.arm.line = .high ∧ 0 < s.regs.txByteCount ∧ s.regs.monitor = false) := by
    rcases h with h | h | h <;> simp [h]
  rw [execArmIdle, if_neg hfall, if_neg hstart]

/-- Settles O14: such a RUN is quiet, or runs the `IDLE` arm, which rests. -/
theorem quietRunChangesNothing : Obligations.QuietRunChangesNothing := by
  refine ⟨fun s p hi hp h => run_of_isQuiet hi hp ?_, fun s hi hp h => ?_⟩
  · have helapsed : elapsedAt s (portNow s) = false := elapsedAt_eq_false h
    simp [isQuiet, lineChanged, helapsed]
  · cases hq : isQuiet s.regs.lastLineState (portNow s) s with
    | true => exact ⟨s.arm, .inl (run_of_isQuiet hi hp hq)⟩
    | false => exact ⟨_, .inr ((run_same hi hp hq).trans (execArmIdle_rests rfl h))⟩

/-- Settles O15: by the three cases of the prologue that are not quiet. -/
theorem runDispatchesOneArm : Obligations.RunDispatchesOneArm := by
  intro s l p hi hp now hsettle elapsed checked
  have hs : settleMasks s (portNow s) = false := settleMasks_eq_false hsettle
  have hchecked : checked = arbitrated p := (arbitrated_eq_mem p).symm
  refine ⟨?_, fun hl ha => run_changed hi hp hs hl (hchecked ▸ ha), fun hl ha => ?_⟩
  · rintro rfl he
    replace he : elapsedAt s (portNow s) = true := he
    rw [run_same hi hp (isQuiet_eq_false s hs (.inr he)), latchArm, he]
    rfl
  · rw [run_aborts hi hp hs hl (hchecked ▸ ha), latchArm, elapsedAt_abort, abort_eq_after]
    rfl

/-- A fall in `IDLE` starts a frame (R76, R77). -/
theorem execArmIdle_falls (hc : s.arm.changed = true) (hl : s.arm.line = .low) : execArmIdle s = .next (startFrame s) :=
  if_pos ⟨hc, hl⟩

/-- Settles O16: the abort leads to `IDLE` with the fall still to be handled, and `IDLE` starts a frame. -/
theorem arbitrationLossStartsReceive : Obligations.ArbitrationLossStartsReceive := by
  intro s p hi hp htx htest hwait hlast hout now hsettle
  have hs : settleMasks s (portNow s) = false := settleMasks_eq_false (by rw [hlast]; exact hsettle)
  have hl : Level.low ≠ s.regs.lastLineState := by rw [hlast]; decide
  refine ⟨_, (run_aborts hi hp hs hl (arbitrated_of_isTransmit htx htest hwait)).trans (execArmIdle_falls rfl rfl),
    ?_, ?_, ?_, ?_, ?_⟩
  · simp [hout, Memory.zeroed, portNow, now]
  · simp [hout]
  all_goals simp

end Sys2Proof.Machine
end

section
/-! PROOF. Completion (spec/40_run_step.md R65, spec/60_exceptions.md R124): no arm refuses, so an operation that the invariant keeps from
faulting and that is admitted answers a next state. -/

namespace Sys2Proof.Machine

variable {c : Config} {s : State} {r r' : Result} {cw : BitVec 32}

/-! ### Operations that do not refuse -/

/-- The operation does not refuse. -/
def NoRefusal (r : Result) : Prop := refusalOf r = none

theorem completes_of_noFault (hf : NoFault r) (hr : NoRefusal r) : ∃ t, r = .next t := by
  cases r with
  | next t => exact ⟨t, rfl⟩
  | fault e => cases hf
  | refused x => cases hr

theorem NoRefusal.next : NoRefusal (.next s) := rfl

theorem NoRefusal.ite {b : Prop} [Decidable b] (h : NoRefusal r) (h' : NoRefusal r') : NoRefusal (if b then r else r') := by
  split_ifs
  · exact h
  · exact h'

theorem NoRefusal.andThen {f : State → Result} (h : NoRefusal r) (hf : ∀ t, NoRefusal (f t) := by exact fun _ => .next) :
    NoRefusal (andThen r f) := by
  cases r with
  | next t => exact hf t
  | fault e => rfl
  | refused x => cases h

theorem NoRefusal.withByte {m : Memory} {i : Nat} {k : Byte → Result} (hk : ∀ b, NoRefusal (k b) := by exact fun _ => .next) :
    NoRefusal (withByte c m i k) := by
  rw [withByte_eq]
  exact .ite (hk _) rfl

theorem NoRefusal.withBytes {m : Memory} {n : Nat} {k : List Byte → Result}
    (hk : ∀ bs, NoRefusal (k bs) := by exact fun _ => .next) : NoRefusal (withBytes c m n k) := by
  rw [withBytes_eq]
  exact .ite (hk _) rfl

theorem NoRefusal.withRoom {n : Nat} (h : NoRefusal r) : NoRefusal (withRoom c n r) := .ite h rfl

/-! ### The shared operations and the arms -/

theorem endBlock_noRefusal (ends : Bool) (s : State) : NoRefusal (endBlock ends s) := .ite (.ite .withBytes .next) .next

theorem allocAdvance_noRefusal (s : State) : NoRefusal (allocAdvance s) := by
  cases h : (candidatesFor s)[s.regs.candIdx + 1]? with
  | none =>
    rw [allocAdvance_eq_fault s h]
    rfl
  | some a =>
    rw [allocAdvance_eq s h]
    exact .ite .next (.withRoom .next)

theorem allocClaim_noRefusal (s : State) : NoRefusal (allocClaim s) := by
  unfold allocClaim
  split <;> rfl

theorem stepIfAllocating_noRefusal (probeAcked : Bool) (s : State) : NoRefusal (stepIfAllocating probeAcked s) :=
  .ite (.ite (allocAdvance_noRefusal s) (allocClaim_noRefusal s)) .next

theorem failAttempt_noRefusal (s : State) : NoRefusal (failAttempt s) :=
  .ite (.andThen .withBytes (stepIfAllocating_noRefusal false)) (.ite .next .withBytes)

theorem succeed_noRefusal (s : State) : NoRefusal (succeed s) := .andThen .withBytes (stepIfAllocating_noRefusal true)

/-- No arm refuses, in any state: an arm is a tree of choices whose leaves are next states and checked accesses. -/
theorem exec_arm_noRefusal (p : Phase) (s : State) : NoRefusal (exec p.arm s) := by
  cases p with
  | idle | rcvDatabit2 | rcvAck2 => exact .ite .next (.ite .next .next)
  | rcvStartbit1 | rcvStartbit2 | rcvEom2 => exact .ite (.ite .next .next) (.ite .next .next)
  | rcvDatabit1 => exact .ite (.andThen .withByte) (.ite .next .next)
  | rcvEom1 => exact .ite (.withRoom .next) (.ite .next .next)
  | rcvAckSent => exact .ite (endBlock_noRefusal _ _) .next
  | rcvAck1 => exact .ite (endBlock_noRefusal _ _) (.ite .next .next)
  | xmitStartbit2 | xmitAck2 => exact .ite .withByte .next
  | xmitDatabit2 => exact .ite (.ite .next .withByte) .next
  | xmitAckTest =>
    exact .ite (.withRoom (.ite (.andThen (failAttempt_noRefusal s)) (.ite (.andThen (succeed_noRefusal s)) .next))) .next
  | rcvLineerror | xmitWait | xmitStartbit1 | xmitDatabit1 | xmitEom1 | xmitEom2 | xmitAck1 | xmitAckWait =>
    exact .ite .next .next

/-! ### The host operations -/

/-- Settles O46: the prologue keeps the invariant, so the code it leaves selects an arm, which neither faults nor refuses. -/
theorem runCompletes : Obligations.RunCompletes := by
  intro s l h hi
  refine completes_of_noFault (run_noFault h l) ?_
  obtain ⟨hc, p, hs⟩ := h
  obtain ⟨q, hq⟩ := prologue_invAt (l := l) hs hc hi (Nat.mod_lt s.op.now (Nat.two_pow_pos s.cfg.timeWidth))
  rw [exec, execRun_eq s l hi hs.state]
  refine .ite .next ?_
  rw [dispatchArm_eq_exec (prologue l (portNow s) s) hq.state]
  exact exec_arm_noRefusal q _

theorem init_completes (hc : s.cfg.ok = true) (hi : s.regs.initialized = false) (pa : BitVec 16) (dtype : BitVec 3)
    (prom mon : Bool) : ∃ t, exec (.init pa dtype prom mon) s = .next t := by
  refine completes_of_noFault (init_noFault hc pa dtype prom mon) ?_
  simp only [exec, execInit, hi, Bool.false_eq_true, if_false]
  rcases allocStart_cases (configure pa dtype prom mon s) with h | ⟨a, rest, -, -, -, h⟩ <;> rw [h]
  · exact .next
  · exact .withRoom .next

theorem xmit_completes (hc : s.cfg.ok = true) (target : LogAddr) (len : BitVec 5) :
    ∃ t, exec (.xmit target len) s = .next t := by
  refine completes_of_noFault (xmit_noFault hc target len) ?_
  rw [exec, execXmit]
  split
  · exact .next
  · exact .ite .next (.ite .next (.ite .next (.withRoom .next)))

/-- The opcode of RUN (R54). -/
theorem opcode_run {l : Level} (h : decodeCommand cw = .accept (.run l)) : cw &&& 0x3 = 0x3 := by
  rcases decodeCommand_cases h with ⟨-, -, _, _, _, _, ⟨⟩⟩ | ⟨-, -, _, _, ⟨⟩⟩ | ⟨h1, h0, -⟩
  rw [opcode_eq_bits, h1, h0]
  rfl

/-- Settles O45: a word that is not reserved decodes to an INIT, an XMIT or a RUN, each of which completes where it is admitted. -/
theorem operationsComplete : Obligations.OperationsComplete := by
  refine fun s op h => ⟨performOp_noFault h op, fun ho hr hinit hrun => ?_⟩
  obtain ⟨i, hd⟩ : ∃ i, decodeCommand op.cw = .accept i := by
    by_contra hno
    exact Bool.false_ne_true (hr.symm.trans ((reservedWord_iff op.cw).2 (not_exists.1 hno)))
  rw [performOp_eq s h.1 ho hd]
  rcases decodeCommand_cases hd with ⟨-, -, pa, dtype, prom, mon, rfl⟩ | ⟨-, -, target, len, rfl⟩ | ⟨-, -, l, rfl⟩
  · exact init_completes (s := s.accept op) h.1 (hinit (opcode_init hd)) pa dtype prom mon
  · exact xmit_completes (s := s.accept op) h.1 target len
  · exact runCompletes (s.accept op) l h (hrun (opcode_run hd))

end Sys2Proof.Machine
end

section
/-! PROOF. IDLE and the receive arms (spec/41_receive.md R76 to R91), case by case: the whole state each update leaves, as `State.after`
writes it, and what the arms leave alone, from the updates they are made of. -/

namespace Sys2Proof.Machine

variable {s t : State} {p : Phase} {r : Regs} {es : List Event} {cs : List Cause} {x y z : Result}

/-! ### The bit classifier -/

theorem classify_eq (c : Config) (d : Nat) : classify c d =
    if c.bitLow1 ≤ d + c.lowMargin ∧ d ≤ c.bitLow1 + c.lowMargin then (true, false)
    else if c.bitLow0 ≤ d + c.lowMargin ∧ d ≤ c.bitLow0 + c.lowMargin then (false, false)
    else (true, true) := by
  simp only [classify, inWindow_iff]

/-- R8 (a): between the two windows lies at least one width. -/
theorem bitWindows_disjoint {c : Config} (hc : c.ok = true) : c.bitLow1 + c.lowMargin < c.bitLow0 - c.lowMargin := by
  simp only [Config.ok, Bool.and_eq_true, Config.okA, decide_eq_true_eq] at hc
  exact hc.2.1.1.1.1.1

/-- Settles O20: R8 (a) keeps a width of the second window out of the first. -/
theorem classifierWindows : Obligations.ClassifierWindows := by
  refine ⟨fun c d hc => ⟨fun h1 => ?_, fun h0 => ?_, fun h1 h0 => ?_⟩, fun d => ?_⟩
  · rw [classify_eq, if_pos h1]
  · have hgap := bitWindows_disjoint hc
    rw [classify_eq, if_neg (by omega), if_pos h0]
  · rw [classify_eq, if_neg h1, if_neg h0]
  · have h1 : 600 ≤ d + 300 ∧ d ≤ 600 + 300 ↔ 300 ≤ d ∧ d ≤ 900 := by omega
    have h0 : 1500 ≤ d + 300 ∧ d ≤ 1500 + 300 ↔ 1200 ≤ d ∧ d ≤ 1800 := by omega
    simp only [classify_eq, Config.default, h1, h0]

/-! ### An arm's case and the state it leaves -/

/-- A state is given by the registers, events and causes it leaves when nothing else changed. Where an update reads the classifier
through `measuredBit` and `outOfTolerance`, the statements write it out, hence the `rfl` after `simp`. -/
theorem eq_after (regs : t.regs = r := by simp <;> rfl)
    (events : t.out.events = s.out.events ++ es := by simp) (trace : t.out.trace = s.out.trace ++ cs := by simp <;> rfl)
    (ok : t.out.ok = s.out.ok := by simp) (cfg : t.cfg = s.cfg := by simp) (inbox : t.inbox = s.inbox := by simp)
    (op : t.op = s.op := by simp) (arm : t.arm = s.arm := by simp) : t = s.after r es cs := by
  obtain ⟨_, _, _, _, _, _, _, _⟩ := t
  subst regs events trace ok cfg inbox op arm
  rfl

/-- The outcome of an arm's case whose update is the state `t`. -/
theorem next_after (hx : x = .next t) (h : t = s.after r es cs := by exact eq_after) : x = .next (s.after r es cs) :=
  hx.trans (congrArg _ h)

/-! The three cases of an arm that waits for an edge under a budget: the edge wins over the budget (R73). -/

theorem arm_edge (hc : s.arm.changed = true) : (if s.arm.changed then x else if s.arm.elapsed then y else z) = x := if_pos hc

theorem arm_timeout (hc : s.arm.changed = false) (he : s.arm.elapsed = true) :
    (if s.arm.changed then x else if s.arm.elapsed then y else z) = y := by simp [hc, he]

theorem arm_rest (hc : s.arm.changed = false) (he : s.arm.elapsed = false) :
    (if s.arm.changed then x else if s.arm.elapsed then y else z) = z := by simp [hc, he]

/-! ### The arms with one update in each case -/

/-- Settles O22: a fall comes first, then a pending frame. -/
theorem idleArm : Obligations.IdleArm := by
  refine fun s => ⟨fun hc hl => next_after (if_pos ⟨hc, hl⟩) (eq_after rfl), fun hl hn hm => ?_, fun h h' => ?_⟩
  · have hfall : ¬(s.arm.changed = true ∧ s.arm.line = .low) := by simp [hl]
    exact next_after ((if_neg hfall).trans (if_pos ⟨hl, hn, hm⟩)) (eq_after rfl)
  · exact (if_neg h).trans (if_neg h')

/-- Settles O23: on a rise by the window of START_LOW. -/
theorem rcvStartbit1Arm : Obligations.RcvStartbit1Arm := fun _ =>
  ⟨fun hc hin => next_after ((arm_edge hc).trans (if_pos ((inWindow_iff ..).2 hin))),
    fun hc hout => next_after ((arm_edge hc).trans (if_neg (mt (inWindow_iff ..).1 hout))),
    fun hc he => next_after (arm_timeout hc he), arm_rest⟩

/-- Settles O24: on a fall by the window of START_TOTAL. -/
theorem rcvStartbit2Arm : Obligations.RcvStartbit2Arm := fun _ =>
  ⟨fun hc hin => next_after ((arm_edge hc).trans (if_pos ((inWindow_iff ..).2 hin))),
    fun hc hout => next_after ((arm_edge hc).trans (if_neg (mt (inWindow_iff ..).1 hout))),
    fun hc he => next_after (arm_timeout hc he), arm_rest⟩

/-- Settles O26: on a fall by the bits of the byte received so far. -/
theorem rcvDatabit2Arm : Obligations.RcvDatabit2Arm := fun _ =>
  ⟨fun hc h8 => next_after (arm_edge hc) (eq_after (by simp [h8])),
    fun hc h8 => next_after (arm_edge hc) (eq_after (by simp [h8])),
    fun hc he => next_after (arm_timeout hc he), arm_rest⟩

/-- Settles O28: on a fall by the acknowledge drive. -/
theorem rcvEom2Arm : Obligations.RcvEom2Arm := fun _ =>
  ⟨fun hc hd => next_after ((arm_edge hc).trans (if_pos (ackDrive_iff.2 hd))),
    fun hc hd => next_after ((arm_edge hc).trans (if_neg (mt ackDrive_iff.1 hd))),
    fun hc he => next_after (arm_timeout hc he), arm_rest⟩

/-- Settles O31: the fall, the timeout, and neither. -/
theorem rcvAck2Arm : Obligations.RcvAck2Arm := fun _ =>
  ⟨fun hc => next_after (arm_edge hc), fun hc he => next_after (arm_timeout hc he), arm_rest⟩

/-- Settles O32: both arms test the rise alone. -/
theorem riseWaitingArms : Obligations.RiseWaitingArms := fun _ =>
  ⟨fun hc hl => ⟨next_after (if_pos ⟨hc, hl⟩), next_after (if_pos ⟨hc, hl⟩)⟩,
    fun h => ⟨if_neg h, if_neg h⟩⟩

/-! ### The data bit -/

theorem shiftByte_toNat (b : Byte) (bit : Bool) : (shiftByte b bit).toNat = (2 * b.toNat + if bit then 1 else 0) % 256 := by
  have hconcat : shiftByte b bit = b.shiftConcat bit := by
    refine BitVec.eq_of_getLsbD_eq fun i hi => ?_
    rw [shiftByte_getLsbD, BitVec.getLsbD_shiftConcat]
  rw [hconcat, BitVec.toNat_shiftConcat, Nat.shiftLeft_eq]
  cases bit <;> simp [Nat.mul_comm]

/-- A data bit that the buffer has room for (R81, R82). -/
theorem execArmRcvDatabit1_shifts (hc : s.arm.changed = true) (hroom : s.regs.rxBitCount < 8 * s.cfg.cap) :
    execArmRcvDatabit1 s = .next (s.after
      { s.regs with
        rxBuf := s.regs.rxBuf.write (s.regs.rxBitCount / 8)
          (shiftByte (s.regs.rxBuf.read (s.regs.rxBitCount / 8)) (measuredBit s))
        rxBitCount := s.regs.rxBitCount + 1, rxNak := s.regs.rxNak || outOfTolerance s
        st := Phase.code .rcvDatabit2, waitTime := some s.cfg.rxHighTimeout }
      [] (if outOfTolerance s then [.rxBitTolerance] else [])) := by
  have hdiv : s.regs.rxBitCount >>> 3 = s.regs.rxBitCount / 8 := Nat.shiftRight_eq_div_pow ..
  rw [execArmRcvDatabit1, if_pos hc, shiftIn_eq _ _ (by simpa using hroom), andThen_next]
  exact congrArg _ (eq_after (by simp [hdiv]))

/-- Settles O25: the shift-in writes one byte of the buffer. -/
theorem rcvDatabit1Arm : Obligations.RcvDatabit1Arm := by
  refine fun s => ⟨fun hc hroom hwf => ?_, fun hc he => next_after (arm_timeout hc he), arm_rest⟩
  refine ⟨_, execArmRcvDatabit1_shifts hc hroom, Memory.write_wf _ _ _ hwf, ?_, fun j hj => ?_⟩
  · rw [Memory.read_write _ _ _ _ hwf, if_pos rfl]
    exact shiftByte_toNat _ _
  · rw [Memory.read_write _ _ _ _ hwf, if_neg hj.symm]

/-! ### The header inspection -/

theorem isFollower_eq (s : State) (h : Byte) :
    isFollower s h = decide (destOf h ≠ s.cfg.laBroadcast ∧ s.regs.la = some (destOf h)) := by
  simp [isFollower, isBroadcast]

/-- The EOM bit, with the header's destination inspected (R84). -/
theorem execArmRcvEom1_inspects (hc : s.arm.changed = true) (hcap : 0 < s.cfg.cap) :
    execArmRcvEom1 s = .next (s.after
      { s.regs with
        rxEom := measuredBit s
        rxNak := s.regs.rxNak || outOfTolerance s || (decide (s.regs.rxBitCount = 8 * s.cfg.cap) && !measuredBit s)
        rxBroadcast := isBroadcast s.cfg (s.regs.rxBuf.read 0), rxFollower := isFollower s (s.regs.rxBuf.read 0)
        st := Phase.code .rcvEom2, waitTime := some s.cfg.rxHighTimeout }
      [] ((if outOfTolerance s then [.rxBitTolerance] else []) ++
        (if decide (s.regs.rxBitCount = 8 * s.cfg.cap) && !measuredBit s then [.rxOverflow] else []))) := by
  have hfollower : isFollower (noteTolerance s) = isFollower s := by simp [funext_iff, isFollower]
  rw [execArmRcvEom1, if_pos hc, withRoom_eq _ hcap]
  exact congrArg _ (eq_after (by simp [hfollower, overflows]) (trace := by simp [overflows]))

/-- Settles O27: a tolerance error, then an overflow. -/
theorem rcvEom1Arm : Obligations.RcvEom1Arm := by
  refine fun s => ⟨fun hc hcap => ?_, fun hc he => next_after (arm_timeout hc he), arm_rest⟩
  have h := execArmRcvEom1_inspects hc hcap
  rw [isFollower_eq] at h
  exact h

/-! ### The end of a block -/

theorem delivers_iff : delivers s = true ↔
    s.regs.rxFollower = true ∨ s.regs.rxBroadcast = true ∨ s.regs.promiscuous = true := by
  simp [delivers, or_assoc]

section EndBlock

variable {e : Bool}

theorem endBlock_goesOn (he : ¬e = true) : endBlock e s = .next (goto .rcvAck2 (some s.cfg.rxHighTimeout) s) := if_neg he

variable (hfit : s.regs.rxBitCount ≤ 8 * s.cfg.cap) (he : e = true)
include hfit he

theorem endBlock_delivers (hd : delivers s = true) : endBlock e s = .next (toIdle (emit
    (.rxComplete (bytesOf s.regs.rxBuf (s.regs.rxBitCount / 8)) (s.regs.rxBitCount / 8) (rxAck s)) s)) := by
  rw [endBlock, if_pos he, deliver_eq s hfit, if_pos hd]

theorem endBlock_drops (hd : ¬delivers s = true) : endBlock e s = .next (toIdle s) := by
  rw [endBlock, if_pos he, deliver_eq s hfit, if_neg hd]

end EndBlock

/-- Settles O29: with the line released, the block ends the frame or the frame goes on. -/
theorem rcvAckSentArm : Obligations.RcvAckSentArm := by
  refine fun s hfit => ⟨fun hel he => ?_, fun hel he hd => ?_, fun hel he hd => ?_, fun hel => if_neg (by simp [hel])⟩
  · exact next_after ((if_pos hel).trans (endBlock_goesOn (by simpa using he)))
  · exact next_after ((if_pos hel).trans (endBlock_delivers hfit (by simpa using he) (delivers_iff.2 hd)))
      (eq_after (events := by simp [rxAck, Bool.and_assoc]))
  · exact next_after ((if_pos hel).trans (endBlock_drops hfit (by simpa using he) (mt delivers_iff.1 hd)))

/-- When the ACK bit on the line ends the frame (R88). -/
theorem ackBit_ends_iff :
    ((noteTolerance s).regs.rxEom || (noteTolerance s).regs.rxNak || lineNak (noteTolerance s) (measuredBit s)) = true ↔
      s.regs.rxEom = true ∨ (s.regs.rxNak || outOfTolerance s) = true ∨
        (if s.regs.rxBroadcast then measuredBit s = false else measuredBit s = true) := by
  cases h : s.regs.rxBroadcast <;> simp [lineNak, h, or_assoc]

theorem delivers_noteTolerance (s : State) : delivers (noteTolerance s) = delivers s := by simp [delivers]

/-- Settles O30: with the bit's width judged, the block ends the frame or the frame goes on. -/
theorem rcvAck1Arm : Obligations.RcvAck1Arm := by
  intro s hfit
  have hfit' : (noteTolerance s).regs.rxBitCount ≤ 8 * (noteTolerance s).cfg.cap := by simpa using hfit
  have hdelivers := delivers_noteTolerance s ▸ delivers_iff (s := s)
  refine ⟨fun hc he => ?_, fun hc he hd => ?_, fun hc he hd => ?_, fun hc he => next_after (arm_timeout hc he), arm_rest⟩
  · exact next_after ((arm_edge hc).trans (endBlock_goesOn (mt ackBit_ends_iff.1 he)))
  · exact next_after ((arm_edge hc).trans (endBlock_delivers hfit' (ackBit_ends_iff.2 he) (hdelivers.2 hd)))
      (eq_after (events := by simp [rxAck, Bool.and_assoc]; rfl))
  · exact next_after ((arm_edge hc).trans (endBlock_drops hfit' (ackBit_ends_iff.2 he) (mt hdelivers.1 hd)))

/-! ### What the arms leave alone -/

/-- The view `v` of a state does not see the updates that the arm of `p` is made of, `p` being IDLE or a receive state. Only
IDLE starts a frame, only RCV_DATABIT1 shifts a bit in, and only the two arms of the acknowledge drive set the line. -/
structure UnseenByReceive {α : Type} (p : Phase) (v : State → α) : Prop where
  goto    : ∀ q w s, v (goto q w s) = v s := by intros; rfl
  note    : ∀ c s, v (note c s) = v s := by intros; rfl
  emit    : ∀ e s, v (emit e s) = v s := by intros; rfl
  mark    : ∀ s, v (markBitStart s) = v s := by intros; rfl
  nak     : ∀ b s, v (forceNak b s) = v s := by intros; rfl
  inspect : ∀ b s, v (inspectHeader b s) = v s := by intros; rfl
  start   : p = .idle → ∀ s, v (startFrame s) = v s
  shift   : p = .rcvDatabit1 → ∀ b, Keeps v (shiftIn b)
  drive   : p = .rcvEom2 ∨ p = .rcvAckSent → ∀ l s, v (setLine l s) = v s

section Unseen

variable {α : Type} {v : State → α} (h : UnseenByReceive p v)
include h

theorem UnseenByReceive.toIdle (s : State) : v (toIdle s) = v s := h.goto ..

theorem UnseenByReceive.abandon (c : Cause) (s : State) : v (abandon c s) = v s := (h.note ..).trans (h.goto ..)

theorem UnseenByReceive.lineError (s : State) : v (lineError s) = v s := (h.note ..).trans (h.goto ..)

theorem UnseenByReceive.noteTolerance (s : State) : v (noteTolerance s) = v s := by
  rw [Machine.noteTolerance, h.nak]
  split_ifs
  · exact h.note ..
  · rfl

theorem UnseenByReceive.noteOverflow (s : State) : v (noteOverflow s) = v s := by
  rw [Machine.noteOverflow, h.nak]
  split_ifs
  · exact h.note ..
  · rfl

theorem UnseenByReceive.markGoto (q : Phase) (w : Option Nat) (s : State) : v (Machine.goto q w (markBitStart s)) = v s :=
  (h.goto ..).trans (h.mark s)

theorem UnseenByReceive.endBlock (e : Bool) : Keeps v (endBlock e) := by
  intro s t ht
  obtain rfl | rfl | rfl := endBlock_next ht
  · exact h.goto ..
  · exact h.toIdle s
  · exact (h.toIdle _).trans (h.emit ..)

/-- A receive arm is a tree of choices whose leaves are the listed updates. -/
theorem UnseenByReceive.arm (hp : isTransmit p = false) : Keeps v (exec p.arm) := by
  cases p with
  | idle => exact .ite (.next (h.start rfl)) (.ite (.next fun _ => h.markGoto ..) (.next fun _ => rfl))
  | rcvStartbit1 =>
    exact .ite (.ite (.next fun _ => h.goto ..) (.next (h.abandon _))) (.ite (.next (h.abandon _)) (.next fun _ => rfl))
  | rcvStartbit2 =>
    exact .ite (.ite (.next fun _ => h.markGoto ..) (.next (h.abandon _))) (.ite (.next (h.abandon _)) (.next fun _ => rfl))
  | rcvDatabit1 =>
    refine .ite (fun s t ht => ?_) (.ite (.next h.lineError) (.next fun _ => rfl))
    obtain ⟨u, hu, ht⟩ := andThen_eq_next.1 ht
    cases ht
    exact (h.goto ..).trans ((h.shift rfl _ hu).trans (h.noteTolerance s))
  | rcvDatabit2 => exact .ite (.next fun _ => h.markGoto ..) (.ite (.next (h.abandon _)) (.next fun _ => rfl))
  | rcvEom1 =>
    refine .ite (fun s t ht => ?_) (.ite (.next h.lineError) (.next fun _ => rfl))
    cases (withRoom_eq_next.1 ht).2
    rw [h.goto, h.noteOverflow, h.inspect, h.noteTolerance]
  | rcvEom2 =>
    have hlow (s : State) : v (beginLow s) = v s := (h.drive (.inl rfl) ..).trans (h.mark s)
    exact .ite (.ite (.next fun s => (h.goto ..).trans (hlow s)) (.next fun _ => h.markGoto ..))
      (.ite (.next (h.abandon _)) (.next fun _ => rfl))
  | rcvAckSent =>
    exact .ite (fun s t ht => (h.endBlock _ ht).trans (h.drive (.inr rfl) ..)) (.next fun _ => rfl)
  | rcvAck1 =>
    exact .ite (fun s t ht => (h.endBlock _ ht).trans (h.noteTolerance s)) (.ite (.next h.lineError) (.next fun _ => rfl))
  | rcvAck2 => exact .ite (.next fun _ => h.markGoto ..) (.ite (.next (h.abandon _)) (.next fun _ => rfl))
  | rcvLineerror => exact .ite (.next h.toIdle) (.next fun _ => rfl)
  | _ => cases hp

end Unseen

/-- The state with everything cleared that IDLE or a receive arm may write: the protocol state, the timers, the line, the receive
registers, `lastInitiator`, the events and the trace. -/
def State.besideReceive (s : State) : State :=
  { s with
    regs := { s.regs with
      st := 0, waitTime := none, bitStartTime := 0, lineSetTime := 0, lastLineState := .high, lineOut := .high
      rxBuf := [], rxBitCount := 0, rxEom := false, rxNak := false, rxFollower := false, rxBroadcast := false
      lastInitiator := false }
    out := { s.out with events := [], trace := [] } }

theorem besideReceive_unseen (p : Phase) : UnseenByReceive p State.besideReceive where
  start _ _ := rfl
  shift _ _ _ _ ht := by cases shiftIn_next ht; rfl
  drive _ _ _ := rfl

theorem lastInitiator_unseen (hp : p ≠ .idle) : UnseenByReceive p fun s => s.regs.lastInitiator where
  start h := absurd h hp
  shift _ _ _ _ ht := by cases shiftIn_next ht; rfl
  drive _ _ _ := rfl

theorem line_unseen (heom : p ≠ .rcvEom2) (hack : p ≠ .rcvAckSent) :
    UnseenByReceive p fun s => (s.regs.lineOut, s.regs.lastLineState, s.regs.lineSetTime) where
  start _ _ := rfl
  shift _ _ _ _ ht := by cases shiftIn_next ht; rfl
  drive h := absurd h (not_or.2 ⟨heom, hack⟩)

theorem rxFrame_unseen (hidle : p ≠ .idle) (hbit : p ≠ .rcvDatabit1) :
    UnseenByReceive p fun s => (s.regs.rxBitCount, s.regs.rxBuf) where
  start h := absurd h hidle
  shift h := absurd h hbit
  drive _ _ _ := rfl

/-- Of the receive buffer a data bit writes one byte at most (R81). -/
theorem execArmRcvDatabit1_bytes (ht : execArmRcvDatabit1 s = .next t) (hwf : s.regs.rxBuf.wf = true) {j : Nat}
    (hj : j ≠ s.regs.rxBitCount / 8) : t.regs.rxBuf.read j = s.regs.rxBuf.read j := by
  rw [execArmRcvDatabit1] at ht
  split_ifs at ht
  · obtain ⟨u, hu, ht⟩ := andThen_eq_next.1 ht
    have hdiv : s.regs.rxBitCount >>> 3 = s.regs.rxBitCount / 8 := Nat.shiftRight_eq_div_pow ..
    cases shiftIn_next hu
    cases ht
    simp only [goto_regs, noteTolerance_regs, hdiv]
    rw [Memory.read_write _ _ _ _ hwf, if_neg hj.symm]
  · cases ht
    rfl
  · cases ht
    rfl

/-- Settles O40: by what the updates of the receive arms do not write. -/
theorem receiveArmsFrame : Obligations.ReceiveArmsFrame := by
  intro p s t hp ht
  have h : t.besideReceive = s.besideReceive := (besideReceive_unseen p).arm hp ht
  refine ⟨congrArg (·.cfg) h, congrArg (·.inbox) h, congrArg (·.op) h, congrArg (·.arm) h, congrArg (·.out.ok) h,
    congrArg (·.regs.initialized) h, congrArg (·.regs.physAddr) h, congrArg (·.regs.devType) h,
    congrArg (·.regs.promiscuous) h, congrArg (·.regs.monitor) h, congrArg (·.regs.la) h, congrArg (·.regs.allocating) h,
    congrArg (·.regs.candIdx) h, fun j => congrArg (·.regs.txBuf.read j) h, congrArg (·.regs.txByteCount) h,
    congrArg (·.regs.txBitIndex) h, congrArg (·.regs.retry) h, fun hidle => (lastInitiator_unseen hidle).arm hp ht,
    fun heom hack => ?_, fun hidle hbit => ?_, ?_⟩
  · simpa only [Prod.mk.injEq] using (line_unseen heom hack).arm hp ht
  · obtain ⟨hcount, hbuf⟩ := Prod.mk.inj ((rxFrame_unseen hidle hbit).arm hp ht)
    exact ⟨hcount, fun j => congrArg (Memory.read · j) hbuf⟩
  · rintro rfl hwf j hj
    exact execArmRcvDatabit1_bytes ht hwf hj

end Sys2Proof.Machine
end

section
/-! PROOF. The transmit arms (spec/42_transmit.md R97 to R109): the whole state each case leaves, as `State.after` writes it, and what the
arms leave alone, from the updates they are made of. -/

namespace Sys2Proof.Machine

variable {s t u : State} {p : Phase} {x y : Result}

/-! ### The deadline -/

theorem deadline_met (he : s.arm.elapsed = true) : (if s.arm.elapsed then x else y) = x := if_pos he

theorem deadline_ahead (he : s.arm.elapsed = false) : (if s.arm.elapsed then x else y) = y := if_neg (by simp [he])

/-- Settles O33: both arms test the deadline alone. -/
theorem fixedBitStartArms : Obligations.FixedBitStartArms := fun _ =>
  ⟨fun he => ⟨next_after (deadline_met he), next_after (deadline_met he)⟩,
    fun he => ⟨deadline_ahead he, deadline_ahead he⟩⟩

/-- Settles O34: the four arms differ in the high phase they enter and its budget. -/
theorem lowPhaseEndArms : Obligations.LowPhaseEndArms := fun _ =>
  ⟨fun he => ⟨next_after (deadline_met he), next_after (deadline_met he), next_after (deadline_met he),
    next_after (deadline_met he)⟩,
    fun he => ⟨deadline_ahead he, deadline_ahead he, deadline_ahead he, deadline_ahead he⟩⟩

/-! ### The data bits -/

/-- A data bit inside the buffer goes on the line for its duration (R94, R95). -/
theorem sendDataBit_eq (h : s.regs.txBitIndex < 8 * s.cfg.cap) : sendDataBit s = .next (goto .xmitDatabit1
    (some (lowFor s.cfg (lineBit (s.regs.txBuf.read (s.regs.txBitIndex / 8)) s.regs.txBitIndex))) s) :=
  withTxBit_eq s _ _ h

/-- The EOM bit is a 1 on the block of the last byte (R95, R101). -/
theorem sendEomBit_eq (s : State) : sendEomBit s = goto .xmitEom1
    (some (if s.regs.txBitIndex = 8 * s.regs.txByteCount then s.cfg.bitLow1 else s.cfg.bitLow0)) s := by
  simp only [sendEomBit, lowFor, decide_eq_true_eq]

/-- Settles O35: the data bits by `sendDataBit`, the EOM bit after a whole byte. -/
theorem dataBitStartArms : Obligations.DataBitStartArms := by
  refine fun s => ⟨fun he hcap => ?_, fun he hroom hbyte => ?_, fun he hbyte => ?_, fun he hroom => ?_,
    fun he => ⟨deadline_ahead he, deadline_ahead he, deadline_ahead he⟩⟩
  · exact next_after ((deadline_met he).trans (withTxBit_eq s 0 _ (by omega))) (eq_after rfl)
  · exact next_after ((deadline_met he).trans ((if_neg hbyte).trans (sendDataBit_eq hroom))) (eq_after rfl)
  · exact next_after ((deadline_met he).trans ((if_pos hbyte).trans (congrArg _ (sendEomBit_eq _))))
  · exact next_after ((deadline_met he).trans (sendDataBit_eq hroom)) (eq_after rfl)

/-! ### The acknowledge test -/

section AckTest

variable (he : s.arm.elapsed = true) (hcap : 0 < s.cfg.cap)
include he hcap

theorem ackTest_fails (ha : ¬acked s s.arm.line = true) :
    execArmXmitAckTest s = andThen (failAttempt s) fun t => .next (toIdle t) := by
  rw [execArmXmitAckTest_eq he hcap, resolveByte, if_pos (by simpa using ha)]

variable (ha : acked s s.arm.line = true)
include ha

theorem ackTest_succeeds (hlast : s.regs.txBitIndex = 8 * s.regs.txByteCount) :
    execArmXmitAckTest s = andThen (succeed s) fun t => .next (toIdle t) := by
  rw [execArmXmitAckTest_eq he hcap, resolveByte, if_neg (by simp [ha]), if_pos hlast]

theorem ackTest_continues (hmore : s.regs.txBitIndex ≠ 8 * s.regs.txByteCount) :
    execArmXmitAckTest s = .next (nextBlock s) := by
  rw [execArmXmitAckTest_eq he hcap, resolveByte, if_neg (by simp [ha]), if_neg hmore]

end AckTest

/-- Settles O36: the next block waits by the level at the sample. -/
theorem ackTestContinuesFrame : Obligations.AckTestContinuesFrame := fun _ =>
  ⟨deadline_ahead,
    fun he hcap ha hmore hl => next_after (ackTest_continues he hcap ((acked_iff _).2 ha) hmore)
      (by rw [nextBlock, hl]; exact eq_after),
    fun he hcap ha hmore hl => next_after (ackTest_continues he hcap ((acked_iff _).2 ha) hmore)
      (by rw [nextBlock, hl]; exact eq_after)⟩

theorem stepIfAllocating_atRest {b : Bool} (h : s.regs.allocating = false) : stepIfAllocating b s = .next s :=
  if_neg (by simp [h])

/-- The allocator's probe, or any frame of one byte, is reported and steps the allocator (R108). -/
theorem failAttempt_oneByte (h1 : s.regs.txByteCount = 1) (hcap : 0 < s.cfg.cap) :
    failAttempt s = stepIfAllocating false (dropFrame
      (emit (.txComplete (bytesOf s.regs.txBuf s.regs.txByteCount) s.regs.txByteCount false)
        (note .txProbeNak (markInitiator s)))) :=
  (if_pos h1).trans (congrArg (andThen · (stepIfAllocating false))
    (reportAndDrop_eq (note .txProbeNak (markInitiator s)) false (h1.trans_le hcap)))

theorem failAttempt_retries (h1 : s.regs.txByteCount ≠ 1) (hr : s.regs.retry < s.cfg.maxRetries) :
    failAttempt s = .next (note .txNakRetry
      { markInitiator s with regs := { (markInitiator s).regs with retry := s.regs.retry + 1 } }) :=
  (if_neg h1).trans (if_pos hr)

theorem failAttempt_givesUp (h1 : s.regs.txByteCount ≠ 1) (hr : s.cfg.maxRetries ≤ s.regs.retry)
    (hfit : s.regs.txByteCount ≤ s.cfg.cap) : failAttempt s = .next (dropFrame
      (emit (.txComplete (bytesOf s.regs.txBuf s.regs.txByteCount) s.regs.txByteCount false)
        (note .txNakFinal (markInitiator s)))) :=
  (if_neg h1).trans ((if_neg (Nat.not_lt.2 hr)).trans (reportAndDrop_eq _ _ hfit))

theorem succeed_eq (hfit : s.regs.txByteCount ≤ s.cfg.cap) :
    succeed s = stepIfAllocating true (dropFrame
      (emit (.txComplete (bytesOf s.regs.txBuf s.regs.txByteCount) s.regs.txByteCount true) (markInitiator s))) :=
  congrArg (andThen · (stepIfAllocating true)) (reportAndDrop_eq (markInitiator s) true hfit)

/-- Settles O37: by the outcomes of `FailAttempt`. -/
theorem ackTestFailureResolves : Obligations.AckTestFailureResolves := by
  refine fun s he hcap ha => ?_
  have hfails := ackTest_fails he hcap (mt (acked_iff _).1 ha)
  refine ⟨fun h1 hr => ?_, fun h1 hr hfit => ?_, fun h1 hrest => ?_⟩
  · rw [failAttempt_retries h1 hr] at hfails
    exact next_after hfails
  · rw [failAttempt_givesUp h1 hr hfit] at hfails
    exact next_after hfails
  · rw [failAttempt_oneByte h1 hcap, stepIfAllocating_atRest (by exact hrest)] at hfails
    exact next_after hfails (eq_after (events := by simp [h1, bytesOf]))

/-- Settles O38: by the outcome of `Succeed`. -/
theorem ackTestSuccessResolves : Obligations.AckTestSuccessResolves := by
  refine fun s he hcap ha hlast hfit hrest => ?_
  have hok := ackTest_succeeds he hcap ((acked_iff _).2 ha) hlast
  rw [succeed_eq hfit, stepIfAllocating_atRest (by exact hrest)] at hok
  exact next_after hok

/-! ### What the acknowledge test can do -/

/-- `s` with its frame reported and dropped, and the trace at `cs` (R46, R108, R109). -/
def reported (ok : Bool) (cs : List Cause) (s : State) : State :=
  { s with
    regs := { s.regs with lastInitiator := true, txByteCount := 0 }
    out := { s.out with
      events := s.out.events ++ [.txComplete (bytesOf s.regs.txBuf s.regs.txByteCount) s.regs.txByteCount ok]
      trace := cs } }

/-- `s` with the candidate index moved to `i` (R114). -/
def atCandidate (i : Nat) (s : State) : State := { s with regs := { s.regs with candIdx := i } }

/-- The states an acknowledge test can lead to from `s` (R105, R108, R109, R114 to R116): no change, a further block, a silent
retry, a report, and while allocating a report after which an address is taken or the next probe is staged. -/
inductive AckTestOutcome (s : State) : State → Prop
  | waits : AckTestOutcome s s
  | continues (q : Phase) (w : Option Nat) : AckTestOutcome s (goto q w s)
  | retries : AckTestOutcome s (toIdle (note .txNakRetry
      { s with regs := { s.regs with lastInitiator := true, retry := s.regs.retry + 1 } }))
  | resolves (ok : Bool) (cs : List Cause) : AckTestOutcome s (toIdle (reported ok cs s))
  | claims (ok : Bool) (cs : List Cause) (i : Nat) (a : LogAddr) (hal : s.regs.allocating = true) :
      AckTestOutcome s (toIdle (takeAddress a (atCandidate i (reported ok cs s))))
  | probes (ok : Bool) (cs : List Cause) (i : Nat) (a : LogAddr) (hal : s.regs.allocating = true) :
      AckTestOutcome s (toIdle (probeStaged a (atCandidate i (reported ok cs s))))

theorem AckTestOutcome.of_stepIfAllocating {b : Bool} (h : stepIfAllocating b u = .next t) (ok : Bool) (cs : List Cause)
    (hu : u = reported ok cs s) : AckTestOutcome s (toIdle t) := by
  subst hu
  obtain ⟨-, rfl⟩ | ⟨hal, -, a, -, rfl⟩ | ⟨hal, -, a, -, -, rfl⟩ | ⟨hal, -, a, -, -, rfl⟩ := stepIfAllocating_next h
  · exact .resolves ok cs
  · exact .claims ok cs s.regs.candIdx a hal
  · exact .claims ok cs (s.regs.candIdx + 1) a hal
  · exact .probes ok cs (s.regs.candIdx + 1) a hal

theorem ackTest_outcome (h : execArmXmitAckTest s = .next t) : AckTestOutcome s t := by
  obtain ⟨-, rfl⟩ | ⟨-, -, -, rfl⟩ | ⟨-, -, u, hu, rfl⟩ | ⟨-, -, -, u, hu, rfl⟩ := execArmXmitAckTest_next h
  · exact .waits
  · unfold nextBlock
    split
    · exact .continues _ _
    · exact .continues _ _
  · obtain ⟨-, hstep⟩ | ⟨-, -, rfl⟩ | ⟨-, -, rfl⟩ := failAttempt_next hu
    · exact .of_stepIfAllocating hstep false (s.out.trace ++ [.txProbeNak]) rfl
    · exact .retries
    · exact .resolves false (s.out.trace ++ [.txNakFinal])
  · exact .of_stepIfAllocating (succeed_next hu) true s.out.trace rfl

/-- With the allocator at rest the acknowledge test leaves it and the transmit buffer as they are. -/
theorem AckTestOutcome.atRest (h : AckTestOutcome s t) (hrest : s.regs.allocating = false) :
    t.regs.la = s.regs.la ∧ t.regs.allocating = s.regs.allocating ∧ t.regs.candIdx = s.regs.candIdx ∧
      t.regs.txBuf = s.regs.txBuf := by
  cases h with
  | claims _ _ _ _ hal | probes _ _ _ _ hal => exact nomatch hrest.symm.trans hal
  | _ => exact ⟨rfl, rfl, rfl, rfl⟩

/-- Of the transmit buffer the acknowledge test writes byte 0 at most, where it stages a probe (R113). -/
theorem AckTestOutcome.txBuf_read (h : AckTestOutcome s t) (hwf : s.regs.txBuf.wf = true) {j : Nat} (hj : j ≠ 0) :
    t.regs.txBuf.read j = s.regs.txBuf.read j := by
  cases h with
  | probes _ _ _ a _ => exact (Memory.read_write _ 0 j (header a a) hwf).trans (if_neg hj.symm)
  | _ => rfl

/-! ### What the arms leave alone -/

/-- The view `v` of a state does not see the updates that the arm of the transmit state `p` is made of. All but the acknowledge
test and wait drive the line, and only XMIT_WAIT and XMIT_DATABIT2 write the bit index. -/
structure UnseenByTransmit {α : Type} (p : Phase) (v : State → α) : Prop where
  goto    : ∀ q w s, v (goto q w s) = v s := by intros; rfl
  mark    : ∀ s, v (markBitStart s) = v s := by intros; rfl
  drive   : p ≠ .xmitAckTest → p ≠ .xmitAckWait → ∀ l s, v (setLine l s) = v s
  index   : p = .xmitWait ∨ p = .xmitDatabit2 → ∀ i s, v { s with regs := { s.regs with txBitIndex := i } } = v s
  resolve : p = .xmitAckTest → ∀ s t, AckTestOutcome s t → v t = v s := by
    rintro - s t ⟨⟩ <;> simp [reported, atCandidate]

section Unseen

variable {α : Type} {v : State → α} (h : UnseenByTransmit p v)
include h

section Drive

variable (htest : p ≠ .xmitAckTest) (hwait : p ≠ .xmitAckWait)
include htest hwait

theorem UnseenByTransmit.beginLow (s : State) : v (beginLow s) = v s := (h.drive htest hwait ..).trans (h.mark s)

theorem UnseenByTransmit.lowTo (q : Phase) (w : Option Nat) (s : State) : v (Machine.goto q w (Machine.beginLow s)) = v s :=
  (h.goto ..).trans (h.beginLow htest hwait s)

theorem UnseenByTransmit.releaseTo (q : Phase) (d : State → Nat) : Keeps v fun s => releaseTo q (d s) s :=
  .ite (.next fun _ => (h.goto ..).trans (h.drive htest hwait ..)) (.next fun _ => rfl)

end Drive

theorem UnseenByTransmit.sendDataBit : Keeps v sendDataBit := by
  intro s t ht
  cases sendDataBit_next ht
  exact h.goto ..

/-- A transmit arm is a tree of choices whose leaves are the listed updates. -/
theorem UnseenByTransmit.arm (hp : isTransmit p = true) : Keeps v (exec p.arm) := by
  cases p with
  | xmitWait => exact .ite (.next fun _ => (h.lowTo nofun nofun ..).trans (h.index (.inl rfl) ..)) (.next fun _ => rfl)
  | xmitStartbit1 | xmitDatabit1 | xmitEom1 | xmitAck1 => exact h.releaseTo nofun nofun _ _
  | xmitStartbit2 =>
    refine .ite (fun s t ht => ?_) (.next fun _ => rfl)
    cases withTxBit_next ht
    exact h.lowTo nofun nofun ..
  | xmitDatabit2 =>
    have hbegun (i : Nat) (s : State) : v (Machine.beginLow { s with regs := { s.regs with txBitIndex := i } }) = v s :=
      (h.beginLow nofun nofun _).trans (h.index (.inr rfl) i s)
    exact .ite (.ite (.next fun s => (h.goto ..).trans (hbegun _ s)) fun s t ht => (h.sendDataBit ht).trans (hbegun _ s))
      (.next fun _ => rfl)
  | xmitEom2 => exact .ite (.next fun _ => h.lowTo nofun nofun ..) (.next fun _ => rfl)
  | xmitAckTest => exact fun s t ht => h.resolve rfl s t (ackTest_outcome ht)
  | xmitAckWait => exact .ite (.next fun _ => h.goto ..) (.next fun _ => rfl)
  | xmitAck2 =>
    exact .ite (fun s t ht => (h.sendDataBit ht).trans (h.beginLow nofun nofun s)) (.next fun _ => rfl)
  | _ => cases hp

end Unseen

/-- The state with everything cleared that a transmit arm may write: the protocol state, the timers, the line, the allocator, the
transmit registers, the events and the trace. -/
@[simp] def State.besideTransmit (s : State) : State :=
  { s with
    regs := { s.regs with
      la := none, allocating := false, candIdx := 0
      st := 0, waitTime := none, bitStartTime := 0, lineSetTime := 0, lastLineState := .high, lineOut := .high
      txBuf := [], txByteCount := 0, txBitIndex := 0, retry := 0, lastInitiator := false }
    out := { s.out with events := [], trace := [] } }

theorem besideTransmit_unseen (p : Phase) : UnseenByTransmit p State.besideTransmit where
  drive _ _ _ _ := rfl
  index _ _ _ := rfl

/-- The allocator, the frame and its counters, which the acknowledge test alone writes. -/
theorem attempt_unseen (hp : p ≠ .xmitAckTest) : UnseenByTransmit p fun s =>
    (s.regs.la, s.regs.allocating, s.regs.candIdx, s.regs.txBuf, s.regs.txByteCount, s.regs.retry,
      s.regs.lastInitiator) where
  drive _ _ _ _ := rfl
  index _ _ _ := rfl
  resolve h := absurd h hp

theorem txBitIndex_unseen (hwait : p ≠ .xmitWait) (hbit : p ≠ .xmitDatabit2) :
    UnseenByTransmit p fun s => s.regs.txBitIndex where
  drive _ _ _ _ := rfl
  index h := absurd h (not_or.2 ⟨hwait, hbit⟩)

theorem lineRecord_unseen (hp : p = .xmitAckTest ∨ p = .xmitAckWait) :
    UnseenByTransmit p fun s => (s.regs.lineOut, s.regs.lastLineState, s.regs.lineSetTime) where
  drive htest hwait := absurd hp (not_or.2 ⟨htest, hwait⟩)
  index h := by rcases hp with rfl | rfl <;> exact absurd h (by decide)

/-- Settles O41: by what the updates of the transmit arms do not write, and by the outcomes of the acknowledge test. -/
theorem transmitArmsFrame : Obligations.TransmitArmsFrame := by
  intro p s t hp ht
  have h : t.besideTransmit = s.besideTransmit := (besideTransmit_unseen p).arm hp ht
  have hattempt (hne : p ≠ .xmitAckTest) := (attempt_unseen hne).arm hp ht
  simp only [Prod.mk.injEq] at hattempt
  refine ⟨congrArg (·.cfg) h, congrArg (·.inbox) h, congrArg (·.op) h, congrArg (·.arm) h, congrArg (·.out.ok) h,
    congrArg (·.regs.initialized) h, congrArg (·.regs.physAddr) h, congrArg (·.regs.devType) h,
    congrArg (·.regs.promiscuous) h, congrArg (·.regs.monitor) h, fun j => congrArg (·.regs.rxBuf.read j) h,
    congrArg (·.regs.rxBitCount) h, congrArg (·.regs.rxEom) h, congrArg (·.regs.rxNak) h, congrArg (·.regs.rxFollower) h,
    congrArg (·.regs.rxBroadcast) h, fun hor => ?_, fun hwf j hj => ?_, fun hne => ?_,
    fun hwait hbit => (txBitIndex_unseen hwait hbit).arm hp ht, fun hor => ?_⟩
  · have hkept : t.regs.la = s.regs.la ∧ t.regs.allocating = s.regs.allocating ∧ t.regs.candIdx = s.regs.candIdx ∧
        t.regs.txBuf = s.regs.txBuf := by
      by_cases hne : p = .xmitAckTest
      · subst hne
        exact (ackTest_outcome ht).atRest (hor.resolve_left (absurd rfl))
      · obtain ⟨hla, hal, hcand, hbuf, -⟩ := hattempt hne
        exact ⟨hla, hal, hcand, hbuf⟩
    obtain ⟨hla, hal, hcand, hbuf⟩ := hkept
    exact ⟨hla, hal, hcand, fun j => congrArg (Memory.read · j) hbuf⟩
  · by_cases hne : p = .xmitAckTest
    · subst hne
      exact (ackTest_outcome ht).txBuf_read hwf hj
    · obtain ⟨-, -, -, hbuf, -⟩ := hattempt hne
      rw [hbuf]
  · obtain ⟨-, -, -, -, hcounters⟩ := hattempt hne
    exact hcounters
  · simpa only [Prod.mk.injEq] using (lineRecord_unseen hor).arm hp ht

end Sys2Proof.Machine
end

section
/-! PROOF. The pending frame (spec/42_transmit.md R110, spec/20_memory.md R46): what each operation does to it and to the reports made, from
the arms through RUN to the host operations. -/

namespace Sys2Proof.Machine

variable {s t : State} {p : Phase} {l : Level}

/-! ### The arms -/

@[simp] theorem txReports_setLine (l : Level) : txReports [.setLine l] = [] := rfl

@[simp] theorem txReports_rxComplete (bs : List Byte) (n : Nat) (ack : Bool) : txReports [.rxComplete bs n ack] = [] := rfl

/-- The reports so far, and the pending frame: its length and the transmit buffer (R32, R46). -/
@[simp] def State.frame (s : State) : List (List Byte × Nat × Bool) × Nat × Memory :=
  (txReports s.out.events, s.regs.txByteCount, s.regs.txBuf)

theorem frame_eq_iff : t.frame = s.frame ↔ txReports t.out.events = txReports s.out.events ∧
    t.regs.txByteCount = s.regs.txByteCount ∧ t.regs.txBuf = s.regs.txBuf := by
  simp only [State.frame, Prod.mk.injEq]

theorem endBlock_keeps_frame (ends : Bool) : Keeps State.frame (endBlock ends) := by
  intro s t h
  obtain rfl | rfl | rfl := endBlock_next h <;> simp

theorem receive_arm_keeps_frame (hp : isTransmit p = false) : Keeps State.frame (exec p.arm) := by
  cases p with
  | idle | rcvDatabit2 | rcvAck2 => exact .ite .next (.ite .next .next)
  | rcvStartbit1 | rcvStartbit2 | rcvEom2 => exact .ite (.ite .next .next) (.ite .next .next)
  | rcvDatabit1 =>
    refine .ite (fun s t h => ?_) (.ite .next .next)
    obtain ⟨u, hu, ht⟩ := andThen_eq_next.1 h
    cases ht
    cases shiftIn_next hu
    simp
  | rcvEom1 =>
    refine .ite (fun s t h => ?_) (.ite .next .next)
    cases (withRoom_eq_next.1 h).2
    simp
  | rcvAckSent =>
    refine .ite (fun s t h => ?_) .next
    simpa using endBlock_keeps_frame _ h
  | rcvAck1 =>
    refine .ite (fun s t h => ?_) (.ite .next .next)
    simpa using endBlock_keeps_frame _ h
  | rcvLineerror => exact .ite .next .next
  | _ => cases hp

theorem frame_unseen (hp : p ≠ .xmitAckTest) : UnseenByTransmit p State.frame where
  drive _ _ _ _ := by simp
  index _ _ _ := rfl
  resolve h := absurd h hp

/-- The frame stays as it is and no report is made, or there is a frame and one report of it. -/
def FrameStep (s t : State) : Prop :=
  t.frame = s.frame ∨ 0 < s.regs.txByteCount ∧ ∃ ok, txReports t.out.events =
    txReports s.out.events ++ [(bytesOf s.regs.txBuf s.regs.txByteCount, s.regs.txByteCount, ok)]

theorem FrameStep.of_keep {u : State} (h : FrameStep u t) (hu : u.frame = s.frame) : FrameStep s t := by
  obtain ⟨hreports, hcount, hbuf⟩ := frame_eq_iff.1 hu
  rwa [FrameStep, hu, hreports, hcount, hbuf] at h

theorem AckTestOutcome.frameStep (h : AckTestOutcome s t) (hpending : 0 < s.regs.txByteCount) : FrameStep s t := by
  cases h with
  | waits | continues | retries => exact .inl rfl
  | resolves ok | claims ok | probes ok => exact .inr ⟨hpending, ok, by simp [reported, atCandidate, txReports]⟩

/-- The acknowledge test alone reports, and in it a frame is pending. -/
theorem arm_frameStep (hpending : p = .xmitAckTest → 0 < s.regs.txByteCount) (h : exec p.arm s = .next t) :
    FrameStep s t := by
  by_cases htest : p = .xmitAckTest
  · subst htest
    exact (ackTest_outcome h).frameStep (hpending rfl)
  · left
    by_cases hp : isTransmit p = true
    · exact (frame_unseen htest).arm hp h
    · exact receive_arm_keeps_frame (by simpa using hp) h

/-! ### RUN and XMIT -/

theorem abort_txReports (s : State) : txReports (abort s).out.events = txReports s.out.events := by
  rw [abort_out]
  split_ifs <;> simp

/-- The record of a line change and the abort leave the frame pending (R67, R71, R128). -/
theorem run_frameStep (hs : s.regs.InvAt s.cfg p) (h : exec (.run l) s = .next t) : FrameStep s t := by
  obtain ⟨-, rfl | ⟨u, p', q, hsp, -, hex, -, -, -, -, -, hprologue⟩⟩ := run_next h
  · exact .inl rfl
  cases code_injective (hsp.symm.trans hs.state)
  have hkept : u.frame = s.frame ∧ (q = p ∨ q = .idle) := by
    obtain ⟨hq, hout, hr⟩ | ⟨hq, hout, hr⟩ | ⟨hq, -, hout, hr⟩ := hprologue
    · exact ⟨by rw [State.frame, hout, hr]; rfl, .inl hq⟩
    · exact ⟨by rw [State.frame, hout, hr]; rfl, .inl hq⟩
    · exact ⟨by rw [State.frame, hout, hr, abort_txReports]; rfl, .inr hq⟩
  obtain ⟨hu, hq⟩ := hkept
  refine (arm_frameStep (fun htest => ?_) hex).of_keep hu
  subst htest
  obtain ⟨-, hcount, -⟩ := frame_eq_iff.1 hu
  rw [hcount]
  exact pending_of_isTransmit rfl (hq.resolve_right nofun ▸ hs.tx)

/-- XMIT rejects a further frame while one is pending (R121). -/
theorem xmit_pending {target : LogAddr} {len : BitVec 5} (hpending : 0 < s.regs.txByteCount)
    (h : exec (.xmit target len) s = .next t) : t.frame = s.frame := by
  have hreject {x : Cause} (h : rejectXmit x s = .next t) : t.frame = s.frame := by
    cases h
    rfl
  cases hla : s.regs.la with
  | none =>
    simp only [exec, execXmit, hla] at h
    exact hreject h
  | some a =>
    simp only [exec, execXmit, hla, ne_eq, hpending.ne', not_false_eq_true, if_true] at h
    split_ifs at h
    · exact hreject h
    · exact hreject h

/-- INIT finds no frame, since only an initialised block has one; XMIT stages one only where none is pending. -/
theorem exec_frameStep {i : Instr} (hs : s.regs.InvAt s.cfg p) (hi : i.isCommand = true) (h : exec i s = .next t) :
    FrameStep s t ∨ s.regs.txByteCount = 0 ∧ txReports t.out.events = txReports s.out.events := by
  cases i with
  | init pa dtype prom mon =>
    obtain ⟨hinit, hout⟩ := init_next h
    refine .inr ⟨by rw [hs.inert hinit]; rfl, ?_⟩
    obtain rfl | ⟨a, rfl⟩ := hout <;> rfl
  | xmit target len =>
    by_cases hempty : s.regs.txByteCount = 0
    · refine .inr ⟨hempty, ?_⟩
      obtain ⟨x, rfl⟩ | ⟨a, -, rfl⟩ := xmit_next h <;> rfl
    · exact .inl (.inl (xmit_pending (Nat.pos_of_ne_zero hempty) h))
  | run l => exact .inl (run_frameStep hs h)
  | _ => cases hi

/-- Settles O54: an operation begins with no reports, and makes one only of the pending frame. -/
theorem frameLeavesOnlyByReport : Obligations.FrameLeavesOnlyByReport := by
  rintro s t op ⟨-, p, hs⟩ ht
  obtain ⟨-, -, i, hd, hex⟩ := performOp_next _ _ ht
  obtain (hkept | ⟨hpending, ok, hreport⟩) | ⟨hempty, hreports⟩ :=
    exec_frameStep (s := s.accept op) hs (decodeCommand_isCommand hd) hex
  · obtain ⟨hreports, hcount, hbuf⟩ := frame_eq_iff.1 hkept
    exact ⟨fun _ => hreports, fun _ => .inl ⟨hreports, hcount, fun j => congrArg (Memory.read · j) hbuf⟩⟩
  · exact ⟨fun hempty => absurd hempty hpending.ne', fun _ => .inr ⟨ok, hreport⟩⟩
  · exact ⟨fun _ => hreports, fun hpending => absurd hempty hpending.ne'⟩

end Sys2Proof.Machine
end

section
/-! PROOF. The allocator (spec/43_allocator.md R110 to R117): where INIT starts it, how each outcome of its probe steps it, and that over
a session READY reports the address the block holds. -/

namespace Sys2Proof.Machine

variable {s t : State} {a : LogAddr} {op : HostOp} {x y : Session} {P : Session → Prop}

/-! ### A session -/

/-- An operation of a session completed, and its events are logged, or was refused, and the block is as before (R55, R127). -/
theorem Session.perform_next (h : x.perform op = some y) :
    (∃ t, performOp op x.machine = .next t ∧ y.machine = t ∧ y.events = x.events ++ t.out.events) ∨
    (y.machine = x.machine ∧ y.events = x.events) := by
  unfold Session.perform at h
  split at h <;> cases h
  · next t ht => exact .inl ⟨t, ht, rfl, by simp [Session.events, Response.events]⟩
  · exact .inr ⟨rfl, by simp [Session.events, Response.events]⟩

/-- What every operation of a session keeps, the session keeps. -/
theorem Session.run_keeps {ops : List HostOp} (hP : ∀ {op x y}, Session.perform op x = some y → P x → P y)
    (h : Session.run ops x = some y) (hx : P x) : P y := by
  induction ops generalizing x with
  | nil => cases h; exact hx
  | cons op ops ih =>
    rw [Session.run] at h
    split at h
    · next z hz => exact ih h (hP hz hx)
    · cases h

/-- The READY events so far are the address now held, if any, and the block meets the invariant (R117). -/
def Session.ReadyAgrees (x : Session) : Prop :=
  x.machine.Inv ∧ readyAddresses x.events = x.machine.regs.la.toList

theorem Session.fresh_readyAgrees {c : Config} (hc : c.ok = true) : (Session.fresh c).ReadyAgrees :=
  ⟨resetWith_inv hc, rfl⟩

/-- An operation reports the address it takes: none where one is held, and otherwise the one held after it (R21). -/
theorem performOp_ready (hs : s.Inv) (ht : performOp op s = .next t) :
    s.regs.la.toList ++ readyAddresses t.out.events = t.regs.la.toList := by
  obtain ⟨hheld, hfree⟩ := addressIsWrittenOnce s t op hs ht
  cases hla : s.regs.la with
  | none => exact hfree hla
  | some a =>
    obtain ⟨hkept, hsilent⟩ := hheld a hla
    rw [hkept, hsilent, List.append_nil]

theorem Session.perform_readyAgrees (h : x.perform op = some y) (hx : x.ReadyAgrees) : y.ReadyAgrees := by
  obtain ⟨hinv, hready⟩ := hx
  obtain ⟨t, ht, hmachine, hevents⟩ | ⟨hmachine, hevents⟩ := Session.perform_next h
  · refine ⟨hmachine ▸ performOp_inv hinv ht, ?_⟩
    rw [hevents, readyAddresses_append, hready, performOp_ready hinv ht, hmachine]
  · exact ⟨hmachine ▸ hinv, by rw [hevents, hready, hmachine]⟩

/-- Settles O53: a session begins with no address and no READY, and every operation that takes the address reports it. -/
theorem readyReportsTheClaimedAddress : Obligations.ReadyReportsTheClaimedAddress := by
  intro c ops x hc hrun
  obtain ⟨-, hready⟩ := Session.run_keeps Session.perform_readyAgrees hrun (Session.fresh_readyAgrees hc)
  exact hready

/-! ### The start -/

theorem execInit_configures {pa : BitVec 16} {dtype : BitVec 3} {prom mon : Bool} (hi : s.regs.initialized = false) :
    execInit pa dtype prom mon s = allocStart (configure pa dtype prom mon s) := if_neg (by simp [hi])

/-- The allocator starts with the probe of the first candidate (R112, R113). -/
theorem allocStart_probes {rest : List LogAddr} (hcap : 0 < s.cfg.cap) (hl : candidatesFor s = a :: rest)
    (hpa : s.regs.physAddr ≠ s.cfg.physBroadcast) (hm : s.regs.monitor = false) :
    allocStart s = .next (probeStaged a { s with regs := { s.regs with allocating := true, candIdx := 0 } }) := by
  simp only [allocStart, hl]
  exact (if_pos ⟨hpa, hm⟩).trans (withRoom_eq _ hcap)

/-- Without a candidate or an address, or in monitor mode, the allocator does not start (R112). -/
theorem allocStart_rests (h : candidatesFor s = [] ∨ s.regs.physAddr = s.cfg.physBroadcast ∨ s.regs.monitor = true) :
    allocStart s = .next s := by
  obtain hs | ⟨a, rest, hl, hpa, hm, -⟩ := allocStart_cases s
  · exact hs
  · simp [hl, hpa, hm] at h

/-- Settles O10: after the configuration by the three conditions of R112. -/
theorem initConfiguresAndStartsAllocator : Obligations.InitConfiguresAndStartsAllocator := by
  refine fun pa dtype prom mon s hi => ⟨fun a rest hcap hl hpa hm => ?_, fun h => ?_⟩
  · exact next_after ((execInit_configures hi).trans
      (allocStart_probes (s := configure pa dtype prom mon s) hcap hl hpa hm)) (eq_after rfl)
  · exact next_after ((execInit_configures hi).trans (allocStart_rests (s := configure pa dtype prom mon s) h))

/-! ### The outcome of a probe -/

section Probe

variable (hal : s.regs.allocating = true)
include hal

/-- An unacknowledged probe claims its candidate (R115). -/
theorem stepIfAllocating_claims (ha : (candidatesFor s)[s.regs.candIdx]? = some a) :
    stepIfAllocating false s = .next (takeAddress a s) := (if_pos hal).trans (allocClaim_eq s ha)

variable (ha : (candidatesFor s)[s.regs.candIdx + 1]? = some a)
include ha

/-- An acknowledged probe before the unregistered address takes that address (R116). -/
theorem stepIfAllocating_fallsBack (hu : a = s.cfg.laUnregistered) :
    stepIfAllocating true s =
      .next (takeAddress a { s with regs := { s.regs with candIdx := s.regs.candIdx + 1 } }) :=
  (if_pos hal).trans ((allocAdvance_eq s ha).trans (if_pos hu))

/-- An acknowledged probe before a specific candidate stages that one's probe (R113, R114). -/
theorem stepIfAllocating_probes (hu : a ≠ s.cfg.laUnregistered) (hcap : 0 < s.cfg.cap) :
    stepIfAllocating true s =
      .next (probeStaged a { s with regs := { s.regs with candIdx := s.regs.candIdx + 1 } }) :=
  (if_pos hal).trans ((allocAdvance_eq s ha).trans ((if_neg hu).trans (withRoom_eq _ hcap)))

end Probe

section Resolved

variable (he : s.arm.elapsed = true) (hcap : 0 < s.cfg.cap) (h1 : s.regs.txByteCount = 1)
include he hcap h1

/-- A probe not acknowledged at its sample point is reported by its one byte, and steps the allocator (R105, R108). -/
theorem ackTest_unackedProbe (ha : ¬acked s s.arm.line = true)
    (hstep : stepIfAllocating false (dropFrame (emit (.txComplete [s.regs.txBuf.read 0] 1 false)
      (note .txProbeNak (markInitiator s)))) = .next t) : execArmXmitAckTest s = .next (toIdle t) := by
  rw [ackTest_fails he hcap ha, failAttempt_oneByte h1 hcap, h1]
  exact congrArg (andThen · fun u => .next (toIdle u)) hstep

/-- A probe acknowledged at its sample point is reported by its one byte, and steps the allocator (R105, R109). -/
theorem ackTest_ackedProbe (ha : acked s s.arm.line = true) (hbit : s.regs.txBitIndex = 8)
    (hstep : stepIfAllocating true (dropFrame (emit (.txComplete [s.regs.txBuf.read 0] 1 true)
      (markInitiator s))) = .next t) : execArmXmitAckTest s = .next (toIdle t) := by
  rw [ackTest_succeeds he hcap ha (by omega), succeed_eq (by omega), h1]
  exact congrArg (andThen · fun u => .next (toIdle u)) hstep

end Resolved

/-- Settles O39: the probe is reported, then the allocator stepped by the acknowledgement and the next candidate. -/
theorem probeOutcomeStepsAllocator : Obligations.ProbeOutcomeStepsAllocator := fun _ he hcap hal h1 =>
  ⟨fun _ hna hc => next_after
      (ackTest_unackedProbe he hcap h1 (mt (acked_iff _).1 hna) (stepIfAllocating_claims hal hc)),
    fun _ ha hbit hc hu => next_after
      (ackTest_ackedProbe he hcap h1 ((acked_iff _).2 ha) hbit (stepIfAllocating_fallsBack hal hc hu)) (eq_after rfl),
    fun _ ha hbit hc hu => next_after
      (ackTest_ackedProbe he hcap h1 ((acked_iff _).2 ha) hbit (stepIfAllocating_probes hal hc hu hcap)) (eq_after rfl)⟩

end Sys2Proof.Machine
end

section
/-! PROOF. XMIT (spec/44_host_ops.md R121): its four rejections, and the frame it stages. -/

namespace Sys2Proof.Machine

variable {s : State} {a : LogAddr}

/-- Settles O11: in each branch of XMIT that rejects, the trace names the condition that the branch tests. -/
theorem xmitRejections : Obligations.XmitRejections := by
  intro target len s h
  cases hla : s.regs.la with
  | none =>
    simp only [exec, execXmit, hla]
    rfl
  | some a =>
    simp only [exec, execXmit, hla, reduceCtorEq, if_false]
    split_ifs with hm hp hlen
    · rfl
    · rfl
    · rfl
    · simp [hla, hm, hp, hlen] at h

theorem xmit_accepts {target : LogAddr} {len : BitVec 5} (hla : s.regs.la = some a) (hm : s.regs.monitor = false)
    (hp : s.regs.txByteCount = 0) (hlen : len.toNat ≤ s.cfg.maxPayload) (hc : s.cfg.ok = true) :
    exec (.xmit target len) s = .next (setOk true (stageFrame a target len.toNat s)) := by
  have hroom : len.toNat + 1 ≤ s.cfg.cap := maxPayload_add_one hc ▸ Nat.succ_le_succ hlen
  simp only [exec, execXmit, hla, hm, hp, Nat.not_lt.2 hlen, ne_eq, not_true_eq_false, Bool.false_eq_true, if_false]
  exact withRoom_eq _ hroom

/-- The port holds every byte that the 5-bit field `len` can count (R53). -/
theorem payloadBytes_length (s : State) (len : BitVec 5) : (payloadBytes s len.toNat).length = len.toNat := by
  rw [payloadBytes, List.length_take, Vector.length_toList]
  exact Nat.min_eq_left (Nat.le_of_lt_succ len.isLt)

theorem payloadBytes_getD {n : Nat} (i : Fin payloadWidth) (hi : i.val < n) :
    (payloadBytes s n).getD i.val 0 = s.op.payload[i] := by
  simp [payloadBytes, List.getD_eq_getElem?_getD, hi]

/-- Settles O12: the header is written first, and the payload past it. -/
theorem xmitStagesFrame : Obligations.XmitStagesFrame := by
  intro target a len s hla hm hp hlen hc hwf
  have hwf' := Memory.write_wf _ 0 (header a target) hwf
  have hread (j : Nat) : (stageFrame a target len.toNat s).regs.txBuf.read j =
      if 1 ≤ j ∧ j < 1 + len.toNat then (payloadBytes s len.toNat).getD (j - 1) 0
      else if 0 = j then header a target else s.regs.txBuf.read j := by
    rw [stageFrame_regs, Memory.read_writeList _ _ _ _ hwf', Memory.read_write _ _ _ _ hwf, payloadBytes_length]
  refine ⟨(stageFrame a target len.toNat s).regs.txBuf, xmit_accepts hla hm hp hlen hc, Memory.writeList_wf _ _ _ hwf', ?_,
    fun i hi => ?_, fun j hj => ?_⟩
  · rw [hread, if_neg (by omega), if_pos rfl, header]
  · rw [hread, if_pos (by omega), Nat.add_sub_cancel_left, payloadBytes_getD i hi]
  · rw [hread, if_neg (by omega), if_neg (by omega)]

end Sys2Proof.Machine
end

section
/-! PROOF. How many events one operation emits (spec/44_host_ops.md R119): the arms but two emit at most one, and an abort's
release is followed by the `IDLE` arm, which emits none. -/

namespace Sys2Proof.Machine

variable {s t : State} {p : Phase} {l : Level} {f g : State → Result}

/-! ### Arms that emit at most one event -/

/-- Where `f` completes, it has added one event to the list or none. -/
def EmitsAtMostOne (f : State → Result) : Prop :=
  ∀ ⦃s t⦄, f s = .next t → ∃ e : Option Event, t.out.events = s.out.events ++ e.toList

theorem EmitsAtMostOne.of_keeps (h : Keeps (fun s => s.out.events) f) : EmitsAtMostOne f := fun _ _ ht =>
  ⟨none, (h ht).trans (List.append_nil _).symm⟩

theorem EmitsAtMostOne.silent {f : State → State} (hf : ∀ s, (f s).out.events = s.out.events := by intro s; simp) :
    EmitsAtMostOne fun s => .next (f s) := .of_keeps (.next hf)

theorem EmitsAtMostOne.drives {f : State → State} (v : Level)
    (hf : ∀ s, (f s).out.events = s.out.events ++ [.setLine v] := by exact fun _ => rfl) :
    EmitsAtMostOne fun s => .next (f s) := fun s t h => by
  cases h
  exact ⟨some (.setLine v), hf s⟩

theorem EmitsAtMostOne.ite {b : State → Prop} [DecidablePred b] (hf : EmitsAtMostOne f) (hg : EmitsAtMostOne g) :
    EmitsAtMostOne fun s => if b s then f s else g s := fun s t h => by
  by_cases hb : b s
  · exact hf ((if_pos hb).symm.trans h)
  · exact hg ((if_neg hb).symm.trans h)

/-- The end of a block emits the delivery at most (R91). -/
theorem endBlock_emits {ends : Bool} (h : endBlock ends s = .next t) :
    t.out.events = s.out.events ∨ ∃ bs n ack, t.out.events = s.out.events ++ [.rxComplete bs n ack] := by
  obtain rfl | rfl | rfl := endBlock_next h
  · exact .inl rfl
  · exact .inl rfl
  · exact .inr ⟨_, _, _, rfl⟩

theorem idle_keeps_events : Keeps (fun s => s.out.events) (exec .armIdle) := .ite .next (.ite .next .next)

theorem releaseTo_emits (q : Phase) (d : State → Nat) : EmitsAtMostOne fun s => releaseTo q (d s) s :=
  .ite (.drives .high) .silent

/-- The arms but the end of the acknowledge drive (R87) and the acknowledge test (R105). -/
theorem arm_emitsAtMostOne (hsent : p ≠ .rcvAckSent) (htest : p ≠ .xmitAckTest) : EmitsAtMostOne (exec p.arm) := by
  cases p with
  | idle => exact .of_keeps idle_keeps_events
  | rcvStartbit1 | rcvStartbit2 => exact .ite (.ite .silent .silent) (.ite .silent .silent)
  | rcvDatabit1 =>
    refine .ite (.of_keeps fun s t h => ?_) (.ite .silent .silent)
    obtain ⟨u, hu, ht⟩ := andThen_eq_next.1 h
    cases ht
    cases shiftIn_next hu
    simp
  | rcvDatabit2 | rcvAck2 => exact .ite .silent (.ite .silent .silent)
  | rcvEom1 =>
    refine .ite (.of_keeps fun s t h => ?_) (.ite .silent .silent)
    cases (withRoom_eq_next.1 h).2
    simp
  | rcvEom2 => exact .ite (.ite (.drives .low) .silent) (.ite .silent .silent)
  | rcvAck1 =>
    refine .ite (fun s t h => ?_) (.ite .silent .silent)
    obtain hnone | ⟨bs, n, ack, hone⟩ := endBlock_emits h
    · exact ⟨none, by simpa using hnone⟩
    · exact ⟨some (.rxComplete bs n ack), by simpa using hone⟩
  | rcvLineerror | xmitAckWait => exact .ite .silent .silent
  | xmitWait | xmitEom2 => exact .ite (.drives .low) .silent
  | xmitStartbit1 | xmitDatabit1 | xmitEom1 | xmitAck1 => exact releaseTo_emits _ _
  | xmitStartbit2 =>
    refine .ite (fun s t h => ?_) .silent
    cases withTxBit_next h
    exact ⟨some (.setLine .low), rfl⟩
  | xmitDatabit2 =>
    refine .ite (.ite (.drives .low) fun s t h => ?_) .silent
    cases sendDataBit_next h
    exact ⟨some (.setLine .low), rfl⟩
  | xmitAck2 =>
    refine .ite (fun s t h => ?_) .silent
    cases sendDataBit_next h
    exact ⟨some (.setLine .low), rfl⟩
  | rcvAckSent => exact absurd rfl hsent
  | xmitAckTest => exact absurd rfl htest

/-! ### What one operation may emit -/

/-- At most one event, a release followed by a delivery, or a report followed by READY (R119). -/
def AllowedEvents (es : List Event) : Prop :=
  es.length ≤ 1 ∨ (∃ bs n ack, es = [.setLine .high, .rxComplete bs n ack]) ∨
    ∃ bs n ok a, es = [.txComplete bs n ok, .ready a]

theorem AllowedEvents.nil : AllowedEvents [] := .inl (Nat.zero_le 1)

theorem AllowedEvents.single (e : Event) : AllowedEvents [e] := .inl (Nat.le_refl 1)

section Arms

variable (hs : s.out.events = [])
include hs

theorem EmitsAtMostOne.allowed (hf : EmitsAtMostOne f) (h : f s = .next t) : AllowedEvents t.out.events := by
  obtain ⟨e, he⟩ := hf h
  rw [he, hs]
  cases e with
  | none => exact .nil
  | some e => exact .single e

/-- The end of the acknowledge drive releases the line, and then may deliver the frame (R87). -/
theorem ackSent_allowed (h : execArmRcvAckSent s = .next t) : AllowedEvents t.out.events := by
  unfold execArmRcvAckSent at h
  split_ifs at h
  · obtain hnone | ⟨bs, n, ack, hone⟩ := endBlock_emits h
    · rw [hnone, setLine_out, hs]
      exact .single _
    · rw [hone, setLine_out, hs]
      exact .inr (.inl ⟨bs, n, ack, rfl⟩)
  · cases h
    rw [hs]
    exact .nil

/-- A report is followed by READY only where the allocator takes the address (R114 to R116). -/
theorem AckTestOutcome.allowed (h : AckTestOutcome s t) : AllowedEvents t.out.events := by
  cases h with
  | waits | continues | retries => exact hs ▸ .nil
  | resolves | probes => simp [reported, atCandidate, hs, AllowedEvents.single]
  | claims ok cs i a =>
    refine .inr (.inr ⟨bytesOf s.regs.txBuf s.regs.txByteCount, s.regs.txByteCount, ok, a, ?_⟩)
    simp [reported, atCandidate, hs]

theorem arm_allowed (h : exec p.arm s = .next t) : AllowedEvents t.out.events := by
  by_cases hsent : p = .rcvAckSent
  · subst hsent
    exact ackSent_allowed hs h
  by_cases htest : p = .xmitAckTest
  · subst htest
    exact (ackTest_outcome h).allowed hs
  exact (arm_emitsAtMostOne hsent htest).allowed hs h

/-- The record of a line change emits nothing, and after an abort's release the `IDLE` arm emits nothing (R67, R71). -/
theorem run_allowed (h : exec (.run l) s = .next t) : AllowedEvents t.out.events := by
  obtain ⟨-, rfl | ⟨u, p, q, -, -, hex, -, -, -, -, -, hprologue⟩⟩ := run_next h
  · exact hs ▸ .nil
  obtain ⟨-, hout, -⟩ | ⟨-, hout, -⟩ | ⟨rfl, -, hout, -⟩ := hprologue
  · exact arm_allowed (hout ▸ hs) hex
  · exact arm_allowed (hout ▸ hs) hex
  · have hidle : t.out.events = u.out.events := idle_keeps_events hex
    rw [hidle, hout, abort_out, hs]
    split_ifs
    · exact .single _
    · exact .nil

end Arms

/-- Settles O55: an operation begins with no events, and INIT and XMIT emit none. -/
theorem atMostTwoEvents : Obligations.AtMostTwoEvents := by
  intro s t op ht
  change AllowedEvents t.out.events
  obtain ⟨-, -, i, hd, hex⟩ := performOp_next _ _ ht
  obtain ⟨-, -, pa, dtype, prom, mon, rfl⟩ | ⟨-, -, target, len, rfl⟩ | ⟨-, -, l, rfl⟩ := decodeCommand_cases hd
  · obtain ⟨-, rfl | ⟨a, rfl⟩⟩ := init_next hex
    · exact .nil
    · exact .nil
  · obtain ⟨x, rfl⟩ | ⟨a, -, rfl⟩ := xmit_next hex
    · exact .nil
    · exact .nil
  · exact run_allowed (s := s.accept op) rfl hex

end Sys2Proof.Machine
end

section
/-! PROOF. Refusals, operating modes and the bus (spec/60_exceptions.md R127, R131, R135): the refusals that come before an operation's
effect, the registers that the operating mode reads followed through RUN to the host operations, and the level that each device of a
tick samples. -/

namespace Sys2Proof.Machine

variable {c : Config} {s t u : State} {p : Phase} {l : Level} {op : HostOp} {r : Regs}

/-! ### Refusals -/

theorem performOp_badParams (hc : s.cfg.ok = false) : performOp op s = .refused .badParams := by
  simp [performOp, hc]

theorem performOp_overlap (hc : s.cfg.ok = true) (ho : op.overlap = true) : performOp op s = .refused .overlap := by
  simp [performOp, hc, ho]

theorem execRun_beforeInit (hi : s.regs.initialized = false) : execRun l s = .refused .runBeforeInit := if_pos (by simp [hi])

theorem execInit_again {pa : BitVec 16} {dtype : BitVec 3} {prom mon : Bool} (hi : s.regs.initialized = true) :
    execInit pa dtype prom mon s = .refused .secondInit := if_pos hi

/-- Settles O9: the parameters are checked first, then the overlap, and RUN and INIT check that the block is initialised. -/
theorem hostLevelRefusals : Obligations.HostLevelRefusals :=
  ⟨fun _ _ hc => performOp_badParams hc, fun _ _ hc ho => performOp_overlap hc ho, fun _ _ hi => execRun_beforeInit hi,
    fun _ _ _ _ _ hi => execInit_again hi⟩

/-! ### Operating modes -/

/-- The registers that the operating mode reads (R131). -/
structure ModeRegs where
  initialized : Bool
  monitor     : Bool
  allocating  : Bool
  la          : Option LogAddr

def State.modeRegs (s : State) : ModeRegs where
  initialized := s.regs.initialized
  monitor := s.regs.monitor
  allocating := s.regs.allocating
  la := s.regs.la

theorem mode_eq_of_modeRegs (h : t.modeRegs = s.modeRegs) : t.regs.mode = s.regs.mode := by
  obtain ⟨hi, hm, hal, hla⟩ := ModeRegs.mk.inj h
  rw [Regs.mode, Regs.mode, hi, hm, hal, hla]

theorem Regs.mode_unconfigured (hi : r.initialized = false) : r.mode = .unconfigured := if_pos (by simp [hi])

theorem Regs.mode_allocating (hi : r.initialized = true) (hm : r.monitor = false) (hal : r.allocating = true) :
    r.mode = .allocating := by
  simp [Regs.mode, hi, hm, hal]

theorem Regs.mode_claimed {a : LogAddr} (hi : r.initialized = true) (hm : r.monitor = false) (hal : r.allocating = false)
    (hla : r.la = some a) : r.mode = .claimed := by
  simp [Regs.mode, hi, hm, hal, hla]

theorem Regs.mode_of_no_address (hi : r.initialized = true) (hla : r.la = none) :
    r.mode ∈ [Mode.monitor, .allocating, .unclaimed] := by
  rw [Regs.mode, if_neg (by simp [hi]), if_pos hla]
  split_ifs <;> decide

/-- INIT configures a block that has no address yet (R120). -/
theorem init_mode {pa : BitVec 16} {dtype : BitVec 3} {prom mon : Bool} (hs : s.regs.InvAt c p)
    (h : exec (.init pa dtype prom mon) s = .next t) :
    s.regs.mode = .unconfigured ∧ t.regs.mode ∈ [Mode.monitor, .allocating, .unclaimed] := by
  obtain ⟨hi, hout⟩ := init_next h
  have hla : s.regs.la = none := by rw [hs.inert hi]; rfl
  refine ⟨Regs.mode_unconfigured hi, ?_⟩
  obtain rfl | ⟨a, rfl⟩ := hout
  · exact Regs.mode_of_no_address rfl hla
  · exact Regs.mode_of_no_address rfl hla

/-- The registers of the mode stay as they are, or the allocator takes an address and ends (R115, R116). -/
def ModeStep (s t : State) : Prop :=
  t.modeRegs = s.modeRegs ∨
    s.modeRegs.allocating = true ∧ ∃ a, t.modeRegs = { s.modeRegs with allocating := false, la := some a }

theorem ModeStep.of_keep (h : ModeStep u t) (hu : u.modeRegs = s.modeRegs) : ModeStep s t := by
  rwa [ModeStep, hu] at h

theorem AckTestOutcome.modeStep (h : AckTestOutcome s t) : ModeStep s t := by
  cases h with
  | claims _ _ _ a hal => exact .inr ⟨hal, a, rfl⟩
  | _ => exact .inl rfl

theorem modeRegs_unseenByReceive (p : Phase) : UnseenByReceive p State.modeRegs where
  start _ _ := rfl
  shift _ _ _ _ ht := by cases shiftIn_next ht; rfl
  drive _ _ _ := rfl

theorem modeRegs_unseenByTransmit (hp : p ≠ .xmitAckTest) : UnseenByTransmit p State.modeRegs where
  drive _ _ _ _ := rfl
  index _ _ _ := rfl
  resolve h := absurd h hp

/-- Of the arms the acknowledge test alone steps the allocator (R114). -/
theorem arm_modeStep (h : exec p.arm s = .next t) : ModeStep s t := by
  by_cases htest : p = .xmitAckTest
  · subst htest
    exact (ackTest_outcome h).modeStep
  · left
    by_cases hp : isTransmit p = true
    · exact (modeRegs_unseenByTransmit htest).arm hp h
    · exact (modeRegs_unseenByReceive p).arm (by simpa using hp) h

/-- The record of a line change and the abort leave the mode (R67, R71). -/
theorem run_modeStep (h : exec (.run l) s = .next t) : ModeStep s t := by
  obtain ⟨-, rfl | ⟨u, p, q, -, -, hex, -, -, -, -, -, hprologue⟩⟩ := run_next h
  · exact .inl rfl
  refine (arm_modeStep hex).of_keep ?_
  obtain ⟨-, -, hr⟩ | ⟨-, -, hr⟩ | ⟨-, -, -, hr⟩ := hprologue <;> rw [State.modeRegs, hr] <;> rfl

/-- A block that allocates is no monitor, so the address it takes claims it (R22). -/
theorem ModeStep.mode (h : ModeStep s t) (hs : s.regs.InvAt c p) (hi : s.regs.initialized = true) :
    t.regs.mode = s.regs.mode ∨ s.regs.mode = .allocating ∧ t.regs.mode = .claimed := by
  obtain h | ⟨hal, a, h⟩ := h
  · exact .inl (mode_eq_of_modeRegs h)
  · obtain ⟨-, hm, -⟩ := hs.allocator.probing hal
    obtain ⟨hi', hm', hal', hla'⟩ := ModeRegs.mk.inj h
    exact .inr ⟨Regs.mode_allocating hi hm hal, Regs.mode_claimed (hi'.trans hi) (hm'.trans hm) hal' hla'⟩

/-- INIT configures the block, XMIT leaves the mode, and RUN leaves it or claims the address. -/
theorem performOp_mode (hs : s.Inv) (ht : performOp op s = .next t) :
    t.regs.mode = s.regs.mode ∨
    (s.regs.mode = .unconfigured ∧ t.regs.mode ∈ [Mode.monitor, .allocating, .unclaimed]) ∨
    (s.regs.mode = .allocating ∧ t.regs.mode = .claimed) := by
  obtain ⟨-, p, hs⟩ := hs
  obtain ⟨-, -, i, hd, hex⟩ := performOp_next _ _ ht
  obtain ⟨-, -, pa, dtype, prom, mon, rfl⟩ | ⟨-, -, target, len, rfl⟩ | ⟨-, -, l, rfl⟩ := decodeCommand_cases hd
  · exact .inr (.inl (init_mode (s := s.accept op) hs hex))
  · left
    obtain ⟨x, rfl⟩ | ⟨a, -, rfl⟩ := xmit_next hex <;> rfl
  · obtain ⟨hi, -⟩ := run_next hex
    exact ((run_modeStep hex).mode (s := s.accept op) hs hi).imp_right .inr

/-- Settles O57: with nothing queued the block stays as it is, and otherwise by the operation performed. -/
theorem modeTransitions : Obligations.ModeTransitions := by
  intro s t hs ht
  obtain ⟨-, -, rfl⟩ | ⟨op, rest, -, hop⟩ := step_next s t ht
  · exact .inl rfl
  · exact performOp_mode (s := { s with inbox := rest }) hs hop

/-! ### The bus -/

theorem level_ne_high_iff : l ≠ .high ↔ l = .low := by cases l <;> decide

theorem Bus.level_eq_high_iff (b : Bus) :
    b.level = .high ↔ b.ext = .high ∧ ∀ d ∈ b.devices, d.regs.lineOut = .high := by
  unfold Bus.level
  split_ifs with h
  · exact iff_of_true rfl h
  · exact iff_of_false nofun h

/-- The wired-AND: any one driver pulls the line low (R135). -/
theorem Bus.level_eq_low_iff (b : Bus) : b.level = .low ↔ b.ext = .low ∨ ∃ d ∈ b.devices, d.regs.lineOut = .low := by
  rw [← level_ne_high_iff, ne_eq, Bus.level_eq_high_iff, not_and_or]
  simp [← level_ne_high_iff]

section Tick

variable {now : Nat} {ext : Level} {done todo : List State} {d d' : State}

theorem Bus.tickRest_cons (h : runDevice now (Bus.level { devices := done ++ d :: todo, ext := ext }) d = .next d') :
    Bus.tickRest now ext done (d :: todo) = Bus.tickRest now ext (done ++ [d']) todo := by
  rw [Bus.tickRest, h]

theorem Bus.tickOn_cons (h : runDevice now l d = .next d') :
    Bus.tickOn now ext l done (d :: todo) = Bus.tickOn now ext l (done ++ [d']) todo := by
  rw [Bus.tickOn, h]

end Tick

/-- Settles O60: by one device's turn in each of the two orders, taken twice. -/
theorem busIsWiredAnd : Obligations.BusIsWiredAnd :=
  ⟨Bus.level_eq_low_iff, fun _ _ _ _ _ _ ha =>
    ⟨fun hb => (Bus.tickRest_cons (done := []) ha).trans (Bus.tickRest_cons hb),
      fun hb => (Bus.tickOn_cons (done := []) ha).trans (Bus.tickOn_cons hb)⟩⟩

end Sys2Proof.Machine
end

section
/-! PROOF. Reset and hazards (spec/70_reset_and_hazards.md R137, R141, R143): the values of a block just created, the width that a RUN
measures for a low phase whose two edges it sees late, and RUN on a line stuck low. -/

namespace Sys2Proof.Machine

variable {c : Config} {i d : Nat} {bit : Bool}

/-! ### The block just created -/

/-- Every byte of an empty buffer is there and is 0x00 (R37, R137). -/
theorem memRead_nil (h : i < c.cap) : memRead c [] i = some 0x00 := memRead_eq _ _ _ h

/-- Settles O1: the values are reset's own, and the buffers are empty lists. -/
theorem resetRegisterValues : Obligations.ResetRegisterValues := fun _ =>
  ⟨rfl, rfl, rfl, rfl, rfl, rfl, rfl, rfl, rfl, rfl, rfl, rfl, rfl, rfl, fun _ hi => ⟨memRead_nil hi, memRead_nil hi⟩,
    rfl, rfl, rfl, rfl, rfl, rfl, rfl, rfl, rfl⟩

/-- Settles O2: the default parameters are one of the legal records. -/
theorem resetSatisfiesInvariant : Obligations.ResetSatisfiesInvariant :=
  ⟨fun _ => resetWith_inv, resetWith_inv (by decide)⟩

/-! ### The cadence -/

/-- A time `d` ticks after another differs from it by `d`, when both wrap (R10). -/
theorem timeDiff_mod_advance (b : Nat) (hd : d < 2 ^ c.timeWidth) :
    timeDiff c ((b + d) % 2 ^ c.timeWidth) (b % 2 ^ c.timeWidth) = d := by
  rw [← Nat.mod_add_mod]
  exact timeDiff_advance (Nat.mod_lt _ (Nat.two_pow_pos _)) hd

/-- A width within the margin of a bit's low phase is read as that bit (R80, R95). -/
theorem classify_lowFor (hc : c.ok = true) (hlo : lowFor c bit ≤ d + c.lowMargin) (hhi : d ≤ lowFor c bit + c.lowMargin) :
    classify c d = (bit, false) := by
  obtain ⟨hone, hzero, -⟩ := classifierWindows.1 c d hc
  cases bit with
  | true => exact hone ⟨hlo, hhi⟩
  | false => exact hzero ⟨hlo, hhi⟩

/-- The low phase of a 1 is the shorter one (R8 (a), R95). -/
theorem bitLow1_le_lowFor (hc : c.ok = true) (bit : Bool) : c.bitLow1 ≤ lowFor c bit := by
  cases bit with
  | true => exact Nat.le_refl c.bitLow1
  | false =>
    have hgap := bitWindows_disjoint hc
    change c.bitLow1 ≤ c.bitLow0
    omega

/-- Settles O21: the measured width is off the nominal one by the difference of the two lags, which is less than the margin. -/
theorem nominalBitsClassifyAtCadence : Obligations.NominalBitsClassifyAtCadence := by
  intro c g f late₁ late₂ bit hc hg hlate₁ hlate₂ hg1 hfits
  have hlow := bitLow1_le_lowFor hc bit
  have hfit : lowFor c bit + g < 2 ^ c.timeWidth := hfits _ (by cases bit <;> simp [lowFor])
  have hrise : f + lowFor c bit + late₂ = f + late₁ + (lowFor c bit + late₂ - late₁) := by omega
  change classify c (timeDiff c ((f + lowFor c bit + late₂) % 2 ^ c.timeWidth) _) = (bit, false)
  rw [hrise, timeDiff_mod_advance _ (by omega)]
  exact classify_lowFor hc (by omega) (by omega)

/-! ### A line stuck low -/

/-- Settles O58: with no budget such a RUN is quiet, and in `IDLE` it is quiet or the arm rests, whatever is pending. -/
theorem stuckLowLineIsInert : Obligations.StuckLowLineIsInert := by
  intro s hi hlow
  obtain ⟨hquiet, hidle⟩ := quietRunChangesNothing
  rw [← hlow]
  refine ⟨fun p _ hp hnone => hquiet s p hi hp (by simp [hnone]), fun hp => ?_⟩
  obtain ⟨a, h | h⟩ := hidle s hi hp (.inl hlow)
  · exact ⟨s, h, rfl, rfl⟩
  · exact ⟨_, h, rfl, rfl⟩

end Sys2Proof.Machine
end
